-- ==== Sys2Proof/Word.lean ====
section
/-! DEFINITION. The two word types of the W1BB block: the byte of BUF, HMEM and the CRC, and the 64-bit word of
the CMD port and of RESULT (00_scope.md rule R10, 30_encoding.md rule R80). -/

namespace Sys2Proof

/-- A byte: one cell of BUF or HMEM, one SPI byte, the CRC accumulator (rule R10). -/
abbrev Byte := BitVec 8

/-- A 64-bit word: a command word on CMD (rule R80), and the width of RESULT and of time (rule R10). -/
abbrev Word := BitVec 64

end Sys2Proof
end

