-- ==== Sys2Proof/Config.lean ====
section
/-! DEFINITION. The implementation parameters of 00_scope.md rule R9, held as plain data so that every statement
covers every legal choice of them, and the free values: what the BUS agent answers (44_bus_timing.md rules R180 and
R184) and what BUF holds before anything is written to it (10_state.md rule R25). -/

namespace Sys2Proof

/-- The two speed classes of the bus (rules R9 and R28). -/
inductive SpeedClass where
  /-- class 0: 100 kHz nominal SPI clock -/
  | regular
  /-- class 1: 1 MHz nominal SPI clock -/
  | overdrive
  deriving DecidableEq, Repr

/-- The strong pull-up wiring of the board (rules R9 and R29). -/
inductive SpuMode where
  /-- 0: no strong pull-up pin -/
  | none
  /-- 1: a GPIO pin, driven high or floating -/
  | directGpio
  /-- 2: an active-low pin through an inverting MOSFET stage -/
  | pMosfet
  /-- 3: the SPI MISO pin itself -/
  | miso
  deriving DecidableEq, Repr

/-- The parameters of rule R9. `EFFECTIVE_HZ` is held by its two values: the nominal clocks are fixed at 100 000 and
1 000 000 Hz, so no other argument of it exists (assumption 2). -/
structure Params where
  /-- BUF_CAP, bytes, 1..65535 -/
  bufCap : BitVec 16
  /-- HMEM_SIZE, bytes, 8..65536 -/
  hmemSize : Nat
  /-- MIN_XFER_RESET -/
  minXferReset : BitVec 16
  /-- MAX_SPEED -/
  maxSpeed : SpeedClass
  /-- SPU_MODE -/
  spuMode : SpuMode
  /-- INVERT_TX_RESET -/
  invertTxReset : Bool
  /-- EFFECTIVE_HZ(100000), at least 1 -/
  effectiveHzRegular : BitVec 32
  /-- EFFECTIVE_HZ(1000000), at least 1 -/
  effectiveHzOverdrive : BitVec 32
  deriving DecidableEq, Repr

/-- The legal values column of rule R9. -/
def Params.legal (p : Params) : Bool :=
  decide (1 ≤ p.bufCap.toNat) && decide (8 ≤ p.hmemSize) && decide (p.hmemSize ≤ 65536) &&
    decide (1 ≤ p.effectiveHzRegular.toNat) && decide (1 ≤ p.effectiveHzOverdrive.toNat)

/-- The default column of rule R9. -/
def Params.default : Params where
  bufCap := 192
  hmemSize := 256
  minXferReset := 0
  maxSpeed := .overdrive
  spuMode := .none
  invertTxReset := false
  effectiveHzRegular := 100000
  effectiveHzOverdrive := 1000000

/-- EFFECTIVE_HZ of the nominal clock of a speed class (rules R9 and R33). -/
def Params.effectiveHz (p : Params) : SpeedClass → BitVec 32
  | .regular => p.effectiveHzRegular
  | .overdrive => p.effectiveHzOverdrive

/-- One SPI transfer as the BUS agent sees it, `Exchange(tx, hz)` of rule R180, with the other things its answer may
depend on: NOW, and the strong pull-up that was on until this exchange. -/
structure BusRequest where
  /-- the bytes on MOSI, in index order -/
  tx : List Byte
  /-- SPI clocks per second, SPI_HZ of this moment (rule R190) -/
  hz : BitVec 32
  /-- NOW of this moment -/
  now : BitVec 64
  /-- SPU.MODE -/
  spuMode : SpuMode
  /-- SPU.ENGAGED just before EXECUTE cleared it (rule R182) -/
  wasEngaged : Bool
  /-- POLARITY.INVERT_TX, which tells the line bytes from `tx` -/
  inverted : Bool
  deriving DecidableEq, Repr

/-- The BUS agent's answer (rule R180). -/
inductive BusAnswer where
  | received (rx : List Byte)
  | transportError
  deriving DecidableEq, Repr

/-- One exchange that has happened: the SPI port's history (rules R20 and R71). -/
structure BusRecord where
  request : BusRequest
  answer : BusAnswer
  deriving DecidableEq, Repr

/-- FREE VALUE (assumption 4): whether the exchange fails, given every earlier exchange and this request (U4). -/
opaque Config.busFails : List BusRecord → BusRequest → Bool

/-- FREE VALUE (assumption 4): byte `j` the exchange receives, given every earlier exchange and this request (U2). -/
opaque Config.busByte : List BusRecord → BusRequest → Nat → Byte

/-- FREE VALUE (assumption 5): byte `j` of BUF after this exchange failed (rule R184, U3). -/
opaque Config.garbageByte : List BusRecord → BusRequest → Nat → Byte

/-- FREE VALUE (assumption 6): what a byte of BUF holds that nothing has written since reset (rule R25, U1). -/
opaque Config.bufPowerOn : Nat → Byte

end Sys2Proof
end

