-- ==== Sys2Proof/Syntax.lean ====
section
/-! DEFINITION. The command set of the W1BB block: one constructor per row of spec/opcode_table.json (30_encoding.md
rule R84). Operands are the unsigned integers of rule R83; a literal byte and a register write value are the bits
they are. -/

namespace Sys2Proof

/-- The 23 commands of rule R84. Counts, addresses, offsets, bit indices, durations and register numbers are plain
unsigned integers (rule R83); that each fits its field of the command word is `Instr.wellFormed`. -/
inductive Instr where
  /-- CLEAR, format Z, rule R121. -/
  | clear
  /-- ADD_PATTERN b, n, format BN, rule R122. -/
  | addPattern (b : Byte) (n : Nat)
  /-- ADD_PATTERN_T b, t, format BT, rule R123: `t` in nanoseconds. -/
  | addPatternT (b : Byte) (t : Nat)
  /-- ADD_RESET, format Z, rule R126. -/
  | addReset
  /-- ADD_WRITE a, n, format AN, rule R127. -/
  | addWrite (a n : Nat)
  /-- ADD_READ n, format N, rule R128. -/
  | addRead (n : Nat)
  /-- ADD_COMMAND b, format B, rule R129. -/
  | addCommand (b : Byte)
  /-- ADD_MATCH_ROM u, format A, rule R131. -/
  | addMatchRom (u : Nat)
  /-- ADD_ENUM_ROM u, format A, rule R132. -/
  | addEnumRom (u : Nat)
  /-- DECODE o, a, n, format OAN, rule R152. -/
  | decode (o a n : Nat)
  /-- SAMPLE o, format O, rule R153. -/
  | sample (o : Nat)
  /-- ENUM_BIT_INFO o, k, format OS, rule R155. -/
  | enumBitInfo (o k : Nat)
  /-- COMPUTE_MATCHING_BITS o, k, f, format OSF, rule R156: `f` is allow_forks. -/
  | computeMatchingBits (o k : Nat) (f : Bool)
  /-- CRC_CALC a, n, format AN, rule R101. -/
  | crcCalc (a n : Nat)
  /-- CRC_BYTE b, format B, rule R102. -/
  | crcByte (b : Byte)
  /-- ROM_CHECK a, format A, rule R103. -/
  | romCheck (a : Nat)
  /-- BIT_GET a, k, format AS, rule R112. -/
  | bitGet (a k : Nat)
  /-- BIT_SET a, k, v, format ASV, rule R113. -/
  | bitSet (a k : Nat) (v : Bool)
  /-- EXECUTE, format Z, rule R181. -/
  | execute
  /-- PAUSE t, format T, rule R185: `t` in nanoseconds. -/
  | pause (t : Nat)
  /-- RDREG r, format R, rule R195. -/
  | rdreg (r : Nat)
  /-- WRREG r, v, format RV, rule R196. -/
  | wrreg (r : Nat) (v : BitVec 48)
  /-- FAULT_ACK, format Z, rule R225. -/
  | faultAck
  deriving DecidableEq, Repr

end Sys2Proof
end

