-- ==== Sys2Proof/WellFormed.lean ====
section
/-! DEFINITION. Which commands the encoding can express: every operand fits its field of rule R81. This is the
assembler's check of 30_encoding.md rule R88 ("The assembler rejects an operand that does not fit its field: it
does not truncate it"). A value that fits but is out of a command's legal range (a bit index above 55, a reserved
register) is a fault at run time, not an ill-formed command. -/

namespace Sys2Proof

/-- The operand fits a field of `width` bits. -/
def fits (width v : Nat) : Bool := decide (v < 2 ^ width)

/-- Every operand fits its field (rules R81 and R88). -/
def Instr.wellFormed : Instr → Bool
  | .clear => true
  | .addPattern _ n => fits 16 n
  | .addPatternT _ t => fits 48 t
  | .addReset => true
  | .addWrite a n => fits 16 a && fits 16 n
  | .addRead n => fits 16 n
  | .addCommand _ => true
  | .addMatchRom u => fits 16 u
  | .addEnumRom u => fits 16 u
  | .decode o a n => fits 16 o && fits 16 a && fits 16 n
  | .sample o => fits 16 o
  | .enumBitInfo o k => fits 16 o && fits 8 k
  | .computeMatchingBits o k _ => fits 16 o && fits 8 k
  | .crcCalc a n => fits 16 a && fits 16 n
  | .crcByte _ => true
  | .romCheck a => fits 16 a
  | .bitGet a k => fits 16 a && fits 8 k
  | .bitSet a k _ => fits 16 a && fits 8 k
  | .execute => true
  | .pause t => fits 48 t
  | .rdreg r => fits 8 r
  | .wrreg r _ => fits 8 r
  | .faultAck => true

end Sys2Proof
end

