-- ==== Sys2Proof/Decode.lean ====
section
/-! DEFINITION. The 64-bit command word (30_encoding.md): field positions (rule R81), formats and their reserved
bits (rule R82), the opcode map (rule R84), the total decoder with its two named rejections (rules R85 and R86), and
the encoder written from the same tables. -/

namespace Sys2Proof

/-- `w[hi:lo]` of rule R11, zero-extended, as an unsigned integer (rule R83). -/
def field (w : Word) (hi lo : Nat) : Nat := w.toNat / 2 ^ lo % 2 ^ (hi + 1 - lo)

/-- The 16 formats of rule R82. -/
inductive Format where
  | Z | B | BN | BT | T | N | A | AN | O | OAN | OS | OSF | AS | ASV | R | RV
  deriving DecidableEq, Repr

/-- The reserved bit ranges `hi:lo` of each format, as the third column of rule R82 lists them. -/
def Format.reserved : Format → List (Nat × Nat)
  | .Z => [(63, 8)]
  | .B => [(63, 16)]
  | .BN => [(63, 32)]
  | .BT => []
  | .T => [(15, 8)]
  | .N => [(63, 32), (15, 8)]
  | .A => [(63, 32), (15, 8)]
  | .AN => [(63, 48), (15, 8)]
  | .O => [(63, 32), (15, 8)]
  | .OAN => [(15, 8)]
  | .OS => [(63, 40), (15, 8)]
  | .OSF => [(63, 41), (15, 8)]
  | .AS => [(63, 40), (15, 8)]
  | .ASV => [(63, 41), (15, 8)]
  | .R => [(63, 16)]
  | .RV => []

/-- Every reserved bit of the format is 0 in `w` (rule R86). -/
def Format.clean (f : Format) (w : Word) : Bool := f.reserved.all fun r => field w r.1 r.2 == 0

/-- The rows of the opcode map, rule R84. -/
inductive Opcode where
  | clear | addPattern | addPatternT | addReset | addWrite | addRead | addCommand | addMatchRom | addEnumRom
  | decode | sample | enumBitInfo | computeMatchingBits
  | crcCalc | crcByte | romCheck | bitGet | bitSet
  | execute | pause | rdreg | wrreg | faultAck
  deriving DecidableEq, Repr

/-- The OP column of rule R84. -/
def Opcode.code : Opcode → Nat
  | .clear => 0x10
  | .addPattern => 0x11
  | .addPatternT => 0x12
  | .addReset => 0x13
  | .addWrite => 0x14
  | .addRead => 0x15
  | .addCommand => 0x16
  | .addMatchRom => 0x17
  | .addEnumRom => 0x18
  | .decode => 0x20
  | .sample => 0x21
  | .enumBitInfo => 0x22
  | .computeMatchingBits => 0x23
  | .crcCalc => 0x30
  | .crcByte => 0x31
  | .romCheck => 0x32
  | .bitGet => 0x38
  | .bitSet => 0x39
  | .execute => 0x40
  | .pause => 0x41
  | .rdreg => 0x48
  | .wrreg => 0x49
  | .faultAck => 0x4F

/-- The format column of rule R84. -/
def Opcode.format : Opcode → Format
  | .clear => .Z
  | .addPattern => .BN
  | .addPatternT => .BT
  | .addReset => .Z
  | .addWrite => .AN
  | .addRead => .N
  | .addCommand => .B
  | .addMatchRom => .A
  | .addEnumRom => .A
  | .decode => .OAN
  | .sample => .O
  | .enumBitInfo => .OS
  | .computeMatchingBits => .OSF
  | .crcCalc => .AN
  | .crcByte => .B
  | .romCheck => .A
  | .bitGet => .AS
  | .bitSet => .ASV
  | .execute => .Z
  | .pause => .T
  | .rdreg => .R
  | .wrreg => .RV
  | .faultAck => .Z

/-- Every row of rule R84, in the table's order. -/
def Opcode.all : List Opcode :=
  [.clear, .addPattern, .addPatternT, .addReset, .addWrite, .addRead, .addCommand, .addMatchRom, .addEnumRom] ++
  [.decode, .sample, .enumBitInfo, .computeMatchingBits, .crcCalc, .crcByte, .romCheck, .bitGet, .bitSet] ++
  [.execute, .pause, .rdreg, .wrreg, .faultAck]

/-- The row whose OP is `op`; none for a reserved opcode (rule R85). -/
def Opcode.ofByte (op : Nat) : Option Opcode := Opcode.all.find? fun o => o.code == op

/-- The literal byte operand B, bits 15:8 (rule R81). -/
def operandB (w : Word) : Byte := BitVec.ofNat 8 (field w 15 8)
/-- The register number R, bits 15:8 (rule R81). -/
def operandR (w : Word) : Nat := field w 15 8
/-- N, A and O share bits 31:16 (rule R81). -/
def operandLow16 (w : Word) : Nat := field w 31 16
/-- N2, bits 47:32 (rule R81). -/
def operandN2 (w : Word) : Nat := field w 47 32
/-- N3, bits 63:48 (rule R81). -/
def operandN3 (w : Word) : Nat := field w 63 48
/-- The bit index S, bits 39:32 (rule R81). -/
def operandS (w : Word) : Nat := field w 39 32
/-- The flag F, bit 40 (rule R81). -/
def operandF (w : Word) : Bool := field w 40 40 == 1
/-- The duration T, bits 63:16 (rule R81). -/
def operandT (w : Word) : Nat := field w 63 16
/-- The register write value V, bits 63:16 (rule R81). -/
def operandV (w : Word) : BitVec 48 := BitVec.ofNat 48 (field w 63 16)

/-- Operand assembly, rule R83: the command of a row with the operands its format names. -/
def Opcode.assemble (w : Word) : Opcode → Instr
  | .clear => .clear
  | .addPattern => .addPattern (operandB w) (operandLow16 w)
  | .addPatternT => .addPatternT (operandB w) (operandT w)
  | .addReset => .addReset
  | .addWrite => .addWrite (operandLow16 w) (operandN2 w)
  | .addRead => .addRead (operandLow16 w)
  | .addCommand => .addCommand (operandB w)
  | .addMatchRom => .addMatchRom (operandLow16 w)
  | .addEnumRom => .addEnumRom (operandLow16 w)
  | .decode => .decode (operandLow16 w) (operandN2 w) (operandN3 w)
  | .sample => .sample (operandLow16 w)
  | .enumBitInfo => .enumBitInfo (operandLow16 w) (operandS w)
  | .computeMatchingBits => .computeMatchingBits (operandLow16 w) (operandS w) (operandF w)
  | .crcCalc => .crcCalc (operandLow16 w) (operandN2 w)
  | .crcByte => .crcByte (operandB w)
  | .romCheck => .romCheck (operandLow16 w)
  | .bitGet => .bitGet (operandLow16 w) (operandS w)
  | .bitSet => .bitSet (operandLow16 w) (operandS w) (operandF w)
  | .execute => .execute
  | .pause => .pause (operandT w)
  | .rdreg => .rdreg (operandR w)
  | .wrreg => .wrreg (operandR w) (operandV w)
  | .faultAck => .faultAck

/-- Why a word is no command: both reasons are the architectural ILLEGAL_COMMAND. -/
inductive Illegal where
  /-- the opcode is none of rule R84's (rule R85) -/
  | reservedOpcode (op : Nat)
  /-- a reserved bit of the opcode's format is 1 (rule R86) -/
  | reservedBits (op : Opcode)
  deriving DecidableEq, Repr

/-- What a word decodes to: exactly one command, or ILLEGAL_COMMAND by name (rule R86). -/
inductive Decoded where
  | command (i : Instr)
  | illegal (why : Illegal)
  deriving DecidableEq, Repr

/-- The decoder, total on all 64-bit words (rules R84, R85, R86). -/
def decodeWord (w : Word) : Decoded :=
  match Opcode.ofByte (field w 7 0) with
  | none => .illegal (.reservedOpcode (field w 7 0))
  | some op => if op.format.clean w then .command (op.assemble w) else .illegal (.reservedBits op)

/-- The decoder as the opcode table numbers bits (bit 0 of the word is bit 0 of the command, rule R80: the word is
delivered whole, so no byte order arises). Bits from `nbits` up are 0. -/
def decodeTableWord (nbits w : Nat) : Option Instr :=
  match decodeWord (BitVec.ofNat 64 (w % 2 ^ nbits)) with
  | .command i => some i
  | .illegal _ => none

/-- The row of rule R84 a command belongs to. -/
def Instr.opcode : Instr → Opcode
  | .clear => .clear
  | .addPattern _ _ => .addPattern
  | .addPatternT _ _ => .addPatternT
  | .addReset => .addReset
  | .addWrite _ _ => .addWrite
  | .addRead _ => .addRead
  | .addCommand _ => .addCommand
  | .addMatchRom _ => .addMatchRom
  | .addEnumRom _ => .addEnumRom
  | .decode _ _ _ => .decode
  | .sample _ => .sample
  | .enumBitInfo _ _ => .enumBitInfo
  | .computeMatchingBits _ _ _ => .computeMatchingBits
  | .crcCalc _ _ => .crcCalc
  | .crcByte _ => .crcByte
  | .romCheck _ => .romCheck
  | .bitGet _ _ => .bitGet
  | .bitSet _ _ _ => .bitSet
  | .execute => .execute
  | .pause _ => .pause
  | .rdreg _ => .rdreg
  | .wrreg _ _ => .wrreg
  | .faultAck => .faultAck

/-- `v` placed at bits `lo+width-1 : lo` of a word under construction (rule R81). -/
def place (lo width v : Nat) : Nat := v % 2 ^ width * 2 ^ lo

/-- The operand bits of a command word, each operand in its field of rule R81. -/
def Instr.operandBits : Instr → Nat
  | .clear => 0
  | .addPattern b n => place 8 8 b.toNat + place 16 16 n
  | .addPatternT b t => place 8 8 b.toNat + place 16 48 t
  | .addReset => 0
  | .addWrite a n => place 16 16 a + place 32 16 n
  | .addRead n => place 16 16 n
  | .addCommand b => place 8 8 b.toNat
  | .addMatchRom u => place 16 16 u
  | .addEnumRom u => place 16 16 u
  | .decode o a n => place 16 16 o + place 32 16 a + place 48 16 n
  | .sample o => place 16 16 o
  | .enumBitInfo o k => place 16 16 o + place 32 8 k
  | .computeMatchingBits o k f => place 16 16 o + place 32 8 k + place 40 1 f.toNat
  | .crcCalc a n => place 16 16 a + place 32 16 n
  | .crcByte b => place 8 8 b.toNat
  | .romCheck a => place 16 16 a
  | .bitGet a k => place 16 16 a + place 32 8 k
  | .bitSet a k v => place 16 16 a + place 32 8 k + place 40 1 v.toNat
  | .execute => 0
  | .pause t => place 16 48 t
  | .rdreg r => place 8 8 r
  | .wrreg r v => place 8 8 r + place 16 48 v.toNat
  | .faultAck => 0

/-- The command word of a well-formed command (rules R80, R81, R84). -/
def encode (i : Instr) : Word := BitVec.ofNat 64 (i.opcode.code + i.operandBits)

end Sys2Proof
end

