-- ==== Sys2Proof/Machine/State.lean ====
section
/-! DEFINITION. The state of the W1BB block and of what the spec puts beside it (10_state.md): BUF and CURSOR, the
block registers, the ports, HMEM, the model-only logs, and, as plain data, the moves the HOST and CLOCK agents still
have to make and the answers the BUS agent has settled (00_scope.md rule R8). The reset state is 70_reset_and_hazards.md
rule R250. -/

namespace Sys2Proof.Machine

/-- A byte memory, BUF or HMEM: (address, byte) pairs, addresses strictly rising. An unlisted address holds no value:
nothing has written it (20_memory.md rule R62, 10_state.md rule R25). -/
abbrev Memory := List Host.Cell

/-- The fault causes of 60_exceptions.md rule R220. They are architectural: a command that raises one ends in a NEXT
state with STATUS latched (rule R222), which stops nothing. -/
inductive FaultCode where
  | illegalCommand
  | bufferOverflow
  | bufferRange
  | hmemRange
  | bitIndexRange
  | crcMismatch
  | transportError
  | illegalRegister
  | illegalValue
  deriving DecidableEq, Repr

/-- What STATUS latches while FAULTED = 1: FAULT_CODE and FAULT_OP (10_state.md rule R27). -/
structure FaultLatch where
  code : FaultCode
  op : BitVec 8
  deriving DecidableEq, Repr

/-- One step of an agent, as a schedule lists them (rule R8). -/
inductive Move where
  /-- BLOCK runs the command it has accepted -/
  | block
  /-- CLOCK moves NOW to `t`, or leaves it where it is later already (rule R35) -/
  | clock (t : BitVec 64)
  /-- HOST offers the word on CMD; it is accepted when the block is ready (rule R20) -/
  | command (w : Word)
  /-- HOST writes a byte of HMEM (rule R62) -/
  | hostWrite (a : BitVec 16) (b : Byte)
  /-- HOST asserts RST (rule R250) -/
  | reset
  deriving DecidableEq, Repr

/-- The reasons the model's run ends; none of them is a fault of the block. -/
inductive Fault where
  /-- Raised by a command that reads an HMEM byte the run has not written: the model-only fault HMEM_UNWRITTEN of
  rule R234, which names the command. Safe: the chip goes on with a value the spec leaves open. -/
  | hmemUnwritten (command : Instr)
  /-- Raised by a HOST write to HMEM between a command's acceptance and its CMD_DONE: the race of rule R67, for which
  "the model has no step". Safe. -/
  | hostRace
  /-- Raised by a HOST write to an HMEM address at or above HMEM_SIZE, which does not exist (rules R60 and R69). Safe. -/
  | hmemAddressAbsent
  deriving DecidableEq, Repr

/-- The reasons an instruction has no meaning. Every instruction of this model has one, so no arm answers this. -/
inductive Refusal where
  /-- Raised by an arm of `exec` whose instruction is not modelled yet. Safe. -/
  | notModelled (mnemonic : String)
  deriving DecidableEq, Repr

structure State where
  /-- the parameters of rule R9: constant, read as CAPACITY, SPEED.MAX and SPU.MODE -/
  params : Params
  /-- BUF (rule R22) -/
  buf : Memory
  /-- CURSOR, register 0x01 (rule R22) -/
  cursor : BitVec 16
  /-- RESULT, register 0x03 (rule R21) -/
  result : BitVec 64
  /-- STATUS.FAULTED with FAULT_CODE and FAULT_OP (rule R27) -/
  latch : Option FaultLatch
  /-- SPEED.SEL (rule R28) -/
  speedSel : SpeedClass
  /-- the SPI_CLK_SET port (rule R20) -/
  spiClkSet : BitVec 32
  /-- SPI_HZ, register 0x09 (rule R33) -/
  spiHz : BitVec 32
  /-- SPU.ENGAGED (rule R29) -/
  spuEngaged : Bool
  /-- POLARITY.INVERT_TX (rule R30) -/
  invertTx : Bool
  /-- MIN_XFER, register 0x07 (rule R31) -/
  minXfer : BitVec 16
  /-- PAUSED_UNTIL, register 0x08 (rule R32) -/
  pausedUntil : BitVec 64
  /-- CRC_ACC, register 0x0A (rule R34) -/
  crcAcc : Byte
  /-- the NOW input, register 0x0B (rule R35) -/
  now : BitVec 64
  /-- HMEM (rule R60); its listed addresses are the model-only set hmem_written (rule R38) -/
  hmem : Memory
  /-- the CMD port: the word accepted and not yet completed (rule R20) -/
  cmd : Option Word
  /-- the CMD_DONE port (rule R20) -/
  cmdDone : Bool
  /-- the moves the agents make next, first one first -/
  moves : List Move
  /-- the BUS answers already settled, next one first; the BUS draws freely once the list is empty -/
  busAnswers : List BusAnswer
  /-- the SPI port's history: every exchange so far, oldest first (rule R71) -/
  busLog : List BusRecord
  /-- fault_log, model-only (rules R38 and R226) -/
  faultLog : List (FaultCode × Word)
  deriving DecidableEq, Repr

/-- The nominal SPI clock of a speed class (rule R9). -/
def nominalHz : SpeedClass → BitVec 32
  | .regular => 100000
  | .overdrive => 1000000

/-- The machine right after power-on with parameters `p` (rule R250): every row of the table, HMEM with nothing
written, the logs empty, no move scheduled. NOW is an input the block does not reset: 0 at power-on (assumption 8). -/
def State.powerOn (p : Params) : State where
  params := p
  buf := []
  cursor := 0
  result := 0
  latch := none
  speedSel := .regular
  spiClkSet := nominalHz .regular
  spiHz := p.effectiveHz .regular
  spuEngaged := false
  invertTx := p.invertTxReset
  minXfer := p.minXferReset
  pausedUntil := 0
  crcAcc := 0
  now := 0
  hmem := []
  cmd := none
  cmdDone := false
  moves := []
  busAnswers := []
  busLog := []
  faultLog := []

/-- The machine right after reset, with the default parameters of rule R9. -/
def State.reset : State := State.powerOn Params.default

end Sys2Proof.Machine
end

