-- ==== Sys2Proof/Machine/Ops.lean ====
section
/-! DEFINITION. The named operations every command is written over: reading and writing a byte memory, appending to
BUF, completing a command, fault entry (60_exceptions.md rule R222) and the return from it (rule R225), discarding
while FAULTED (rule R223), the BUS answer (44_bus_timing.md rule R180), the reset of the RST port (70_reset_and_hazards.md
rule R250) and the moves of HOST and CLOCK. -/

namespace Sys2Proof.Machine

/-! ### Byte memories -/

/-- The byte at address `a`, or none where nothing has written it. -/
def Memory.read : Memory → Nat → Option Byte
  | [], _ => none
  | c :: m, a => if a = c.1 then some c.2 else Memory.read m a

/-- Write one byte, keeping the addresses strictly rising. -/
def Memory.write : Memory → Nat → Byte → Memory
  | [], a, b => [(a, b)]
  | c :: m, a, b =>
    if a < c.1 then (a, b) :: c :: m
    else if a = c.1 then (a, b) :: m
    else c :: Memory.write m a b

/-- The canonical form: addresses strictly rising. An unlisted address holds no value, so no entry is redundant. -/
def Memory.wf : Memory → Bool
  | [] => true
  | c :: m => m.all (fun d => decide (c.1 < d.1)) && Memory.wf m

/-- `MemWrite(a, n, bytes)` of 00_scope.md rule R12, bytes in ascending address order. -/
def Memory.writeAll : Memory → Nat → List Byte → Memory
  | m, _, [] => m
  | m, a, b :: bs => Memory.writeAll (Memory.write m a b) (a + 1) bs

/-- `MemRead(a, n)` of rule R12; none when one of the bytes has not been written (rule R62). -/
def Memory.readAll : Memory → Nat → Nat → Option (List Byte)
  | _, _, 0 => some []
  | m, a, n + 1 =>
    match Memory.read m a with
    | none => none
    | some b =>
      match Memory.readAll m (a + 1) n with
      | none => none
      | some bs => some (b :: bs)

/-! ### Completing a command, faulting, discarding -/

/-- The command ends: CMD is free again and CMD_DONE rises (rules R20 and R222). -/
def State.complete (s : State) : State := { s with cmd := none, cmdDone := true }

/-- `RESULT <- v`, replacing the previous value entirely (10_state.md rule R21). -/
def State.setResult (s : State) (v : Nat) : State := { s with result := BitVec.ofNat 64 v }

/-- TAKING A FAULT, rule R222: STATUS takes the code and the OP field of the command word, fault_log grows by one
entry, CMD_DONE rises. Nothing else changes. -/
def State.enterFault (s : State) (code : FaultCode) (w : Word) : State :=
  { s with
    latch := some { code := code, op := BitVec.ofNat 8 (field w 7 0) }
    faultLog := s.faultLog ++ [(code, w)]
    cmd := none
    cmdDone := true }

/-- RETURN FROM A FAULT, rule R225: FAULT_CODE, FAULT_OP and FAULTED become 0, everything else stays. -/
def State.acknowledge (s : State) : State := { s with latch := none }

/-- STATUS.FAULTED. -/
def State.faulted (s : State) : Bool := s.latch.isSome

/-- How a command's pseudocode ends (00_scope.md rule R13). -/
inductive Effect where
  /-- it ran to its end, writing what `t` holds; CMD_DONE is still to rise -/
  | done (t : State)
  /-- `raise Fault(code)`: nothing it would have written is written -/
  | raise (code : FaultCode)
  /-- EXECUTE waits for the pause to elapse (rule R183) -/
  | hold
  /-- it read an HMEM byte the run has not written (rule R234) -/
  | unwritten
  /-- it ended with all of its state, CMD_DONE included, already in `t` -/
  | settled (t : State)
  deriving DecidableEq, Repr

/-- The step of a command from the way its pseudocode ends. The word that STATUS.FAULT_OP and fault_log record is the
command's own encoding. -/
def finish (i : Instr) (s : State) : Effect → Host.Outcome State Fault Refusal
  | .done t => .next t.complete
  | .raise code => .next (s.enterFault code (encode i))
  | .hold => .next s
  | .unwritten => .fault (.hmemUnwritten i)
  | .settled t => .next t

/-- Every command but RDREG and FAULT_ACK: while a fault is latched it is discarded, writing nothing and raising
CMD_DONE (rule R223); otherwise it runs. -/
def runCommand (i : Instr) (s : State) (e : Effect) : Host.Outcome State Fault Refusal :=
  if s.faulted then .next s.complete else finish i s e

/-- A command word that is no command (rules R85 and R86): ILLEGAL_COMMAND, or discarded while a fault is latched
(rule R223: "decoded for nothing"). -/
def illegalCommand (w : Word) (s : State) : Host.Outcome State Fault Refusal :=
  if s.faulted then .next s.complete else .next (s.enterFault .illegalCommand w)

/-! ### The transaction buffer -/

/-- `BUF[j]`; a byte nothing has written since reset is a free value that no command of a run reads (rule R25). -/
def State.bufByte (s : State) (j : Nat) : Byte := (s.buf.read j).getD (Config.bufPowerOn j)

/-- The writing part of `Append` (42_txbuf_encode.md rule R120): `k` bytes at CURSOR, CURSOR advanced, RESULT = `ret`. -/
def State.appendBytes (s : State) (k : Nat) (bytes : List Byte) (ret : Nat) : State :=
  { s with
    buf := s.buf.writeAll s.cursor.toNat bytes
    cursor := BitVec.ofNat 16 (s.cursor.toNat + k)
    result := BitVec.ofNat 64 ret }

/-- `Append(bytes, ret)` of rule R120, for a list of length `k`: the capacity check comes before any write. -/
def append (s : State) (k : Nat) (bytes : List Byte) (ret : Nat) : Effect :=
  if s.cursor.toNat + k > s.params.bufCap.toNat then .raise .bufferOverflow
  else .done (s.appendBytes k bytes ret)

/-! ### The BUS agent -/

/-- A list brought to exactly `k` bytes (rule R180: "a list rx of exactly k bytes"): bytes it lacks are drawn. -/
def fitAnswer (k : Nat) (log : List BusRecord) (r : BusRequest) (rx : List Byte) : List Byte :=
  (List.range k).map fun j => rx.getD j (Config.busByte log r j)

/-- `Exchange(tx, hz)` of rule R180: the next settled answer, or a free draw once none is left. -/
def State.exchange (s : State) (r : BusRequest) : BusAnswer :=
  match s.busAnswers with
  | .transportError :: _ => .transportError
  | .received rx :: _ => .received (fitAnswer r.tx.length s.busLog r rx)
  | [] =>
    if Config.busFails s.busLog r then .transportError
    else .received (fitAnswer r.tx.length s.busLog r [])

/-- The exchange has happened: its record joins the SPI port's history and a settled answer is used up. -/
def State.recordExchange (s : State) (r : BusRequest) : State :=
  { s with busAnswers := s.busAnswers.tail, busLog := s.busLog ++ [{ request := r, answer := s.exchange r }] }

/-! ### RST, HOST and CLOCK -/

/-- RST (rules R250 and R251): every piece of block state takes its reset value and a command accepted or held is
dropped with no CMD_DONE; HMEM, NOW, fault_log and what lies outside the block stay. -/
def State.rst (s : State) : State :=
  { State.powerOn s.params with
    now := s.now
    hmem := s.hmem
    moves := s.moves
    busAnswers := s.busAnswers
    busLog := s.busLog
    faultLog := s.faultLog }

/-- CLOCK moves NOW, which never goes back (rule R35). -/
def State.advanceClock (s : State) (t : BitVec 64) : State :=
  { s with now := if s.now.toNat < t.toNat then t else s.now }

/-- HOST writes a byte of HMEM: between commands only (rule R67), and only where a byte exists. -/
def State.hostStore (s : State) (a : Nat) (b : Byte) : Host.Outcome State Fault Refusal :=
  if s.cmd.isSome then .fault .hostRace
  else if s.params.hmemSize ≤ a then .fault .hmemAddressAbsent
  else .next { s with hmem := s.hmem.write a b }

/-- The handshake on CMD: the block takes the word and CMD_DONE falls (rule R20). -/
def State.accept (s : State) (w : Word) : State := { s with cmd := some w, cmdDone := false }

end Sys2Proof.Machine
end

