-- ==== Sys2Proof/Machine/Operands.lean ====
section
/-! DEFINITION. Operand forms: the HMEM range of 20_memory.md rule R61, the ROM-code bit index of 41_rom_code.md rule
R111, the 1-Wire bit encoding of 42_txbuf_encode.md rule R125, the register numbers of 10_state.md rule R26, and the
arithmetic of 00_scope.md rule R11. -/

namespace Sys2Proof.Machine

/-- `ceil_div(a, b)` of rule R11. -/
def ceilDiv (a b : Nat) : Nat := (a + b - 1) / b

/-- `sat64(v)` of rule R11. -/
def sat64 (v : Nat) : Nat := min v (2 ^ 64 - 1)

/-- An HMEM access of `n` bytes at `a` is in range, computed without wrap-around (rule R61). -/
def State.hmemInRange (s : State) (a n : Nat) : Bool := decide (a + n ≤ s.params.hmemSize)

/-- An HMEM byte operand read: `MemRead(a, n)`, none where a byte is unwritten (rules R12 and R62). -/
def State.memRead (s : State) (a n : Nat) : Option (List Byte) := s.hmem.readAll a n

/-- Bit `i` of a UUID given as its bytes: bit `i & 7` of byte `i >> 3` (rule R111). -/
def uuidBit (id : List Byte) (i : Nat) : Bool := (id.getD (i / 8) 0).getLsbD (i % 8)

/-- `Enc(bit)`: SPIBB_ONE for 1, SPIBB_ZERO for 0 (rule R125). -/
def enc (bit : Bool) : Byte := if bit then 0x7F else 0x03

/-- `EncByte(b)`: eight slot bytes, LSB first (rule R125). -/
def encByte (b : Byte) : List Byte := (List.range 8).map fun j => enc (b.getLsbD j)

/-- `EncByte(d[0]) ++ EncByte(d[1]) ++ …` (rule R127). -/
def encBytes (d : List Byte) : List Byte := d.flatMap encByte

/-- The reset pulse and its presence window (rule R126). -/
def resetPattern : List Byte := List.replicate 7 0x00 ++ List.replicate 4 0xFF

/-- The search triplet of one bit: probe bit, probe complement, direction (rule R132). -/
def enumTriplet (id : List Byte) (i : Nat) : List Byte := [0x7F, 0x7F, enc (uuidBit id i)]

/-- The 168 bytes of the enum region: bits 0..55 in ascending order (rule R132). -/
def enumRegion (id : List Byte) : List Byte := (List.range 56).flatMap (enumTriplet id)

/-- The byte count of a duration at the current SPI clock, rounded up (rule R123). -/
def State.patternBytes (s : State) (t : Nat) : Nat := ceilDiv (t * s.spiHz.toNat) (8 * 1000000000)

/-- The 12 registers of rule R26. -/
inductive RegName where
  | status | cursor | capacity | result | speed | spu | polarity | minXfer | pausedUntil | spiHz | crcAcc | now
  deriving DecidableEq, Repr

/-- The number column of rule R26; 0x0C..0xFF are reserved. -/
def regOfNumber : Nat → Option RegName
  | 0x00 => some .status
  | 0x01 => some .cursor
  | 0x02 => some .capacity
  | 0x03 => some .result
  | 0x04 => some .speed
  | 0x05 => some .spu
  | 0x06 => some .polarity
  | 0x07 => some .minXfer
  | 0x08 => some .pausedUntil
  | 0x09 => some .spiHz
  | 0x0A => some .crcAcc
  | 0x0B => some .now
  | _ => none

end Sys2Proof.Machine
end

