-- ==== Sys2Proof/Machine/Flags.lean ====
section
/-! DEFINITION. Every status bit a program tests (10_state.md rule R36): the sampling rule and the probe results
has_zero, has_one, dir (43_sample_decode.md rules R150 and R154), PAUSE_PENDING, the STATUS word with its fault code
(rules R27 and R220), and the strong pull-up pin, which is a function of SPU.MODE and SPU.ENGAGED (44_bus_timing.md
rule R189). -/

namespace Sys2Proof.Machine

/-- `Sample(b)`: HIGH iff `(b & 0x70) = 0x70` (rule R150). -/
def sample (b : Byte) : Bool := b &&& 0x70 == 0x70

/-- `Sample(BUF[o])`. -/
def State.sampleAt (s : State) (o : Nat) : Bool := sample (s.bufByte o)

/-- `has_zero(i)` of the enum region at `e`: the first probe sampled LOW (rule R154). -/
def State.hasZero (s : State) (e i : Nat) : Bool := !s.sampleAt (e + 3 * i)

/-- `has_one(i)`: the second probe sampled LOW (rule R154). -/
def State.hasOne (s : State) (e i : Nat) : Bool := !s.sampleAt (e + 3 * i + 1)

/-- `dir(i)`: the direction read back from the buffer (rule R154). -/
def State.dirBit (s : State) (e i : Nat) : Bool := s.sampleAt (e + 3 * i + 2)

/-- The scan of COMPUTE_MATCHING_BITS stops at bit `i` (rule R156). -/
def State.pathBreaks (s : State) (e : Nat) (allowForks : Bool) (i : Nat) : Bool :=
  (!s.dirBit e i && !s.hasZero e i) || (s.dirBit e i && !s.hasOne e i) ||
    (!allowForks && s.hasZero e i && s.hasOne e i)

/-- A pause is pending iff `PAUSED_UNTIL > NOW` (rules R27 and R32). -/
def State.pausePending (s : State) : Bool := decide (s.now.toNat < s.pausedUntil.toNat)

/-- The code column of rule R220. -/
def FaultCode.number : FaultCode → Nat
  | .illegalCommand => 0x01
  | .bufferOverflow => 0x02
  | .bufferRange => 0x03
  | .hmemRange => 0x04
  | .bitIndexRange => 0x05
  | .crcMismatch => 0x06
  | .transportError => 0x07
  | .illegalRegister => 0x08
  | .illegalValue => 0x09

/-- FAULT_CODE, FAULTED and FAULT_OP in their places of STATUS; 0 when no fault is latched (rule R27). -/
def FaultLatch.statusBits : Option FaultLatch → Nat
  | none => 0
  | some l => l.code.number + 2 ^ 8 + l.op.toNat * 2 ^ 16

/-- STATUS as RDREG reads it (rule R27): reserved bits 0, PAUSE_PENDING computed now. -/
def State.statusWord (s : State) : Nat :=
  FaultLatch.statusBits s.latch + s.spuEngaged.toNat * 2 ^ 9 + s.pausePending.toNat * 2 ^ 10

/-- SPEED.SEL and SPEED.MAX as bits (rule R28). -/
def speedBit : SpeedClass → Nat
  | .regular => 0
  | .overdrive => 1

/-- SPU.MODE as bits 1:0 (rule R29). -/
def spuModeBits : SpuMode → Nat
  | .none => 0
  | .directGpio => 1
  | .pMosfet => 2
  | .miso => 3

/-- How the SPU_PIN port drives its pin. -/
inductive PinDrive where
  /-- there is no pin -/
  | absent
  /-- output mode at a level -/
  | output (high : Bool)
  /-- disabled, floating -/
  | floating
  /-- the SPI alternate function -/
  | alternate
  deriving DecidableEq, Repr

/-- The strong pull-up pin, the table of rule R189. -/
def pinDrive : SpuMode → Bool → PinDrive
  | .none, _ => .absent
  | .directGpio, true => .output true
  | .directGpio, false => .floating
  | .pMosfet, true => .output false
  | .pMosfet, false => .output true
  | .miso, true => .output true
  | .miso, false => .alternate

/-- The SPU_PIN port of this state: the pin follows the table at every step (rule R189). -/
def State.spuPin (s : State) : PinDrive := pinDrive s.params.spuMode s.spuEngaged

/-- A register's value as RDREG copies it into RESULT, every bit the field table does not list reading 0 (rule R26). -/
def State.regValue (s : State) : RegName → Nat
  | .status => s.statusWord
  | .cursor => s.cursor.toNat
  | .capacity => s.params.bufCap.toNat
  | .result => s.result.toNat
  | .speed => speedBit s.speedSel + speedBit s.params.maxSpeed * 2
  | .spu => spuModeBits s.params.spuMode + s.spuEngaged.toNat * 4
  | .polarity => s.invertTx.toNat
  | .minXfer => s.minXfer.toNat
  | .pausedUntil => s.pausedUntil.toNat
  | .spiHz => s.spiHz.toNat
  | .crcAcc => s.crcAcc.toNat
  | .now => s.now.toNat

/-- The source's `PausedUntil()`: the timestamp, or "no pause" exactly when no pause is pending (rule R32). -/
def State.pausedUntilQuery (s : State) : Option (BitVec 64) :=
  if s.pausePending then some s.pausedUntil else none

/-- The source's `HasStrongPullUp()` (rule R29). -/
def State.hasStrongPullUp (s : State) : Bool := s.params.spuMode != .none

end Sys2Proof.Machine
end

