-- ==== Sys2Proof/Machine/Bus.lean ====
section
/-! DEFINITION. Bus exchange and timing (44_bus_timing.md): EXECUTE in the order of rule R181, and PAUSE. -/

namespace Sys2Proof.Machine

/-- EXECUTE's padding with idle bytes up to MIN_XFER (rule R181). -/
def State.padded (s : State) : State :=
  if s.cursor.toNat < s.minXfer.toNat then
    { s with
      buf := s.buf.writeAll s.cursor.toNat (List.replicate (s.minXfer.toNat - s.cursor.toNat) 0xFF)
      cursor := s.minXfer }
  else s

/-- EXECUTE releases the strong pull-up before the first byte (rule R182). -/
def State.disengaged (s : State) : State := { s with spuEngaged := false }

/-- The bytes on MOSI: `BUF[0..CURSOR-1]`, complemented when INVERT_TX = 1 (rule R181). -/
def State.txBytes (s : State) : List Byte :=
  (List.range s.cursor.toNat).map fun j => s.bufByte j ^^^ (if s.invertTx then 0xFF#8 else 0x00#8)

/-- The exchange EXECUTE asks the BUS for, from the padded state (rules R180 and R190). -/
def State.busRequest (s : State) : BusRequest where
  tx := s.txBytes
  hz := s.spiHz
  now := s.now
  spuMode := s.params.spuMode
  wasEngaged := s.spuEngaged
  inverted := s.invertTx

/-- The `k` arbitrary bytes a failed exchange leaves (rule R184). -/
def garbage (k : Nat) (log : List BusRecord) (r : BusRequest) : List Byte :=
  (List.range k).map fun j => Config.garbageByte log r j

/-- The exchange itself, from the padded state: the received bytes stored as received with RESULT their count, or
arbitrary bytes and TRANSPORT_ERROR with the padding and the released pull-up kept (rules R181 and R184). -/
def State.transfer (s : State) : State :=
  let r := s.busRequest
  let t := s.disengaged.recordExchange r
  match s.exchange r with
  | .received rx => ({ t with buf := t.buf.writeAll 0 rx }.setResult s.cursor.toNat).complete
  | .transportError =>
    { t with buf := t.buf.writeAll 0 (garbage s.cursor.toNat s.busLog r) }.enterFault .transportError (encode .execute)

/-- EXECUTE (rule R181): the overflow check, then the hold (rule R183), then padding, release and exchange. -/
def execExecute (s : State) : Host.Outcome State Fault Refusal :=
  runCommand .execute s <|
    if s.cursor.toNat < s.minXfer.toNat ∧ s.params.bufCap.toNat < s.minXfer.toNat then .raise .bufferOverflow
    else if s.pausePending then .hold
    else .settled s.padded.transfer

/-- PAUSE t (rules R185 and R186). -/
def execPause (t : Nat) (s : State) : Host.Outcome State Fault Refusal :=
  let until' := max s.pausedUntil.toNat (sat64 (s.now.toNat + t))
  runCommand (.pause t) s <|
    .done ({ s with
      pausedUntil := BitVec.ofNat 64 until'
      spuEngaged := s.hasStrongPullUp || s.spuEngaged }.setResult until')

end Sys2Proof.Machine
end

