-- ==== Sys2Proof/Machine/Crc.lean ====
section
/-! DEFINITION. The CRC-8 generator (40_crc8.md): the function `Crc8` of rule R100 and the commands CRC_CALC, CRC_BYTE
and ROM_CHECK. -/

namespace Sys2Proof.Machine

/-- One bit through the accumulator (rule R100): `mix` is the accumulator's low bit XOR the input bit. -/
def crcBit (acc : Byte) (bit : Bool) : Byte :=
  if (acc.getLsbD 0 ^^ bit) then (acc >>> 1) ^^^ 0x8C else acc >>> 1

/-- One byte through the accumulator, bit 0 first (rule R100). -/
def crcOfByte (acc b : Byte) : Byte := (List.range 8).foldl (fun a j => crcBit a (b.getLsbD j)) acc

/-- `Crc8(acc0, bytes)` of rule R100. -/
def crc8 (acc : Byte) (bytes : List Byte) : Byte := bytes.foldl crcOfByte acc

/-- CRC_CALC a, n (rule R101), start value 0x00 (rule R105). -/
def execCrcCalc (a n : Nat) (s : State) : Host.Outcome State Fault Refusal :=
  runCommand (.crcCalc a n) s <|
    if !s.hmemInRange a n then .raise .hmemRange
    else match s.memRead a n with
      | none => .unwritten
      | some d => .done (s.setResult (crc8 0x00 d).toNat)

/-- CRC_BYTE b (rule R102). -/
def execCrcByte (b : Byte) (s : State) : Host.Outcome State Fault Refusal :=
  runCommand (.crcByte b) s <|
    .done ({ s with crcAcc := crc8 s.crcAcc [b] }.setResult (crc8 s.crcAcc [b]).toNat)

/-- ROM_CHECK a (rule R103): the CRC of bytes 0..6 against byte 7. -/
def execRomCheck (a : Nat) (s : State) : Host.Outcome State Fault Refusal :=
  runCommand (.romCheck a) s <|
    if !s.hmemInRange a 8 then .raise .hmemRange
    else match s.memRead a 8 with
      | none => .unwritten
      | some r =>
        if crc8 0x00 (r.take 7) ≠ r.getD 7 0 then .raise .crcMismatch
        else .done (s.setResult (crc8 0x00 (r.take 7)).toNat)

end Sys2Proof.Machine
end

