-- ==== Sys2Proof/Machine/Encoder.lean ====
section
/-! DEFINITION. The transaction-buffer encoder (42_txbuf_encode.md): CLEAR and the ADD commands. The order of the
checks of each command is its row of 60_exceptions.md rule R221. -/

namespace Sys2Proof.Machine

/-- CLEAR (rule R121): BUF bytes and RESULT stay. -/
def execClear (s : State) : Host.Outcome State Fault Refusal :=
  runCommand .clear s (.done { s with cursor := 0 })

/-- ADD_PATTERN b, n (rule R122). -/
def execAddPattern (b : Byte) (n : Nat) (s : State) : Host.Outcome State Fault Refusal :=
  runCommand (.addPattern b n) s (append s n (List.replicate n b) s.cursor.toNat)

/-- ADD_PATTERN_T b, t (rule R123): the byte count is fixed from the SPI_HZ of this moment (rule R257). -/
def execAddPatternT (b : Byte) (t : Nat) (s : State) : Host.Outcome State Fault Refusal :=
  runCommand (.addPatternT b t) s
    (append s (s.patternBytes t) (List.replicate (s.patternBytes t) b) s.cursor.toNat)

/-- ADD_RESET (rule R126): RESULT points into the presence window. -/
def execAddReset (s : State) : Host.Outcome State Fault Refusal :=
  runCommand .addReset s (append s 11 resetPattern (s.cursor.toNat + 8))

/-- ADD_WRITE a, n (rule R127). -/
def execAddWrite (a n : Nat) (s : State) : Host.Outcome State Fault Refusal :=
  runCommand (.addWrite a n) s <|
    if !s.hmemInRange a n then .raise .hmemRange
    else if s.cursor.toNat + 8 * n > s.params.bufCap.toNat then .raise .bufferOverflow
    else match s.memRead a n with
      | none => .unwritten
      | some d => append s (8 * n) (encBytes d) s.cursor.toNat

/-- ADD_READ n (rule R128). -/
def execAddRead (n : Nat) (s : State) : Host.Outcome State Fault Refusal :=
  runCommand (.addRead n) s (append s (8 * n) (List.replicate (8 * n) 0x7F) s.cursor.toNat)

/-- ADD_COMMAND b (rule R129). -/
def execAddCommand (b : Byte) (s : State) : Host.Outcome State Fault Refusal :=
  runCommand (.addCommand b) s (append s 8 (encByte b) s.cursor.toNat)

/-- ADD_MATCH_ROM u (rule R131): the CRC sent is the one computed; `HMEM[u+7]` is not read. -/
def execAddMatchRom (u : Nat) (s : State) : Host.Outcome State Fault Refusal :=
  runCommand (.addMatchRom u) s <|
    if !s.hmemInRange u 7 then .raise .hmemRange
    else if s.cursor.toNat + 72 > s.params.bufCap.toNat then .raise .bufferOverflow
    else match s.memRead u 7 with
      | none => .unwritten
      | some id => append s 72 (encByte 0x55 ++ encBytes (id ++ [crc8 0x00 id])) s.cursor.toNat

/-- ADD_ENUM_ROM u (rule R132): RESULT is the enum region's start. -/
def execAddEnumRom (u : Nat) (s : State) : Host.Outcome State Fault Refusal :=
  runCommand (.addEnumRom u) s <|
    if !s.hmemInRange u 7 then .raise .hmemRange
    else if s.cursor.toNat + 176 > s.params.bufCap.toNat then .raise .bufferOverflow
    else match s.memRead u 7 with
      | none => .unwritten
      | some id => append s 176 (encByte 0xF0 ++ enumRegion id) (s.cursor.toNat + 8)

end Sys2Proof.Machine
end

