-- ==== Sys2Proof/Machine/Registers.lean ====
section
/-! DEFINITION. Register access and fault acknowledgement: RDREG and WRREG (44_bus_timing.md rules R195 and R196) for
every register of 10_state.md rule R26, and FAULT_ACK (60_exceptions.md rule R225). -/

namespace Sys2Proof.Machine

/-- RDREG r (rule R195). It runs while a fault is latched too; one that would fault then is discarded (rule R223). -/
def execRdreg (r : Nat) (s : State) : Host.Outcome State Fault Refusal :=
  match regOfNumber r with
  | none => runCommand (.rdreg r) s (.raise .illegalRegister)
  | some reg => .next (s.setResult (s.regValue reg)).complete

/-- A successful SPEED write: SEL, the clock request, and the transport's answer (rule R28). -/
def State.selectSpeed (s : State) (c : SpeedClass) : State :=
  { s with speedSel := c, spiClkSet := nominalHz c, spiHz := s.params.effectiveHz c }

/-- The speed class of bit 0 of a SPEED value (rule R28). -/
def speedOfBit (b : Bool) : SpeedClass := if b then .overdrive else .regular

/-- The `case r of` of WRREG (rule R196). -/
def writeReg (reg : RegName) (v : BitVec 48) (s : State) : Effect :=
  match reg with
  | .speed =>
    if v >>> 2 ≠ 0 then .raise .illegalValue
    else if v.getLsbD 0 ∧ s.params.maxSpeed = .regular then .raise .illegalValue
    else .done (s.selectSpeed (speedOfBit (v.getLsbD 0)))
  | .polarity => if v >>> 1 ≠ 0 then .raise .illegalValue else .done { s with invertTx := v.getLsbD 0 }
  | .minXfer => if v >>> 16 ≠ 0 then .raise .illegalValue else .done { s with minXfer := v.setWidth 16 }
  | .crcAcc => if v >>> 8 ≠ 0 then .raise .illegalValue else .done { s with crcAcc := v.setWidth 8 }
  | .status | .cursor | .capacity | .result | .spu | .pausedUntil | .spiHz | .now => .raise .illegalRegister

/-- WRREG r, v (rule R196); RESULT is unchanged. -/
def execWrreg (r : Nat) (v : BitVec 48) (s : State) : Host.Outcome State Fault Refusal :=
  runCommand (.wrreg r v) s <|
    match regOfNumber r with
    | none => .raise .illegalRegister
    | some reg => writeReg reg v s

/-- FAULT_ACK (rule R225): it runs while a fault is latched, and is a no-op when none is. -/
def execFaultAck (s : State) : Host.Outcome State Fault Refusal := .next s.acknowledge.complete

end Sys2Proof.Machine
end

