-- ==== Sys2Proof/Machine/RomCode.lean ====
section
/-! DEFINITION. ROM-code bits (41_rom_code.md): BIT_GET and BIT_SET on a 7-byte UUID in HMEM. -/

namespace Sys2Proof.Machine

/-- `(byte & ~(1 << j)) | (v << j)` in 8 bits (rule R113). -/
def setBit (b : Byte) (j : Nat) (v : Bool) : Byte :=
  (b &&& ~~~(1#8 <<< j)) ||| (if v then 1#8 <<< j else 0#8)

/-- BIT_GET a, k (rule R112). -/
def execBitGet (a k : Nat) (s : State) : Host.Outcome State Fault Refusal :=
  runCommand (.bitGet a k) s <|
    if k > 55 then .raise .bitIndexRange
    else if !s.hmemInRange a 7 then .raise .hmemRange
    else match s.hmem.read (a + k / 8) with
      | none => .unwritten
      | some b => .done (s.setResult (b.getLsbD (k % 8)).toNat)

/-- BIT_SET a, k, v (rule R113); RESULT is unchanged. -/
def execBitSet (a k : Nat) (v : Bool) (s : State) : Host.Outcome State Fault Refusal :=
  runCommand (.bitSet a k v) s <|
    if k > 55 then .raise .bitIndexRange
    else if !s.hmemInRange a 7 then .raise .hmemRange
    else match s.hmem.read (a + k / 8) with
      | none => .unwritten
      | some b => .done { s with hmem := s.hmem.write (a + k / 8) (setBit b (k % 8) v) }

end Sys2Proof.Machine
end

