-- ==== Sys2Proof/Machine/Sampler.lean ====
section
/-! DEFINITION. The sample controller, decoder and search collision detector (43_sample_decode.md): DECODE, SAMPLE,
ENUM_BIT_INFO and COMPUTE_MATCHING_BITS. Each checks that what it reads of BUF lies below CURSOR (rule R151). -/

namespace Sys2Proof.Machine

/-- The read of `BUF[o .. o+k-1]` lies below CURSOR (rule R151). -/
def State.bufInRange (s : State) (o k : Nat) : Bool := decide (o + k ≤ s.cursor.toNat)

/-- A byte from its eight bits, bit 0 first: `out <- out | (bit << j)` for j in 0..7 (rule R152). -/
def byteOfBits (bit : Nat → Bool) : Byte :=
  (List.range 8).foldl (fun out j => out ||| (if bit j then 1#8 <<< j else 0#8)) 0x00

/-- The byte DECODE reads from the eight slots at `o` (rule R152). -/
def State.decodeByte (s : State) (o : Nat) : Byte := byteOfBits fun j => s.sampleAt (o + j)

/-- The `n` bytes DECODE reads from `o` (rule R152). -/
def State.decodeBytes (s : State) (o n : Nat) : List Byte := (List.range n).map fun k => s.decodeByte (o + 8 * k)

/-- DECODE o, a, n (rule R152): every bit of every output byte is written; RESULT is unchanged. -/
def execDecode (o a n : Nat) (s : State) : Host.Outcome State Fault Refusal :=
  runCommand (.decode o a n) s <|
    if !s.hmemInRange a n then .raise .hmemRange
    else if !s.bufInRange o (8 * n) then .raise .bufferRange
    else .done { s with hmem := s.hmem.writeAll a (s.decodeBytes o n) }

/-- SAMPLE o (rule R153). -/
def execSample (o : Nat) (s : State) : Host.Outcome State Fault Refusal :=
  runCommand (.sample o) s <|
    if !s.bufInRange o 1 then .raise .bufferRange
    else .done (s.setResult (s.sampleAt o).toNat)

/-- ENUM_BIT_INFO o, k (rule R155): bit 0 has_zero, bit 1 has_one, bit 2 any. -/
def execEnumBitInfo (o k : Nat) (s : State) : Host.Outcome State Fault Refusal :=
  runCommand (.enumBitInfo o k) s <|
    if k > 55 then .raise .bitIndexRange
    else if !s.bufInRange o 168 then .raise .bufferRange
    else .done (s.setResult
      ((s.hasZero o k).toNat + 2 * (s.hasOne o k).toNat + 4 * (s.hasZero o k || s.hasOne o k).toNat))

/-- The first index from `i` on, within `n` indices, where `stop` holds; `i + n` where it holds at none. -/
def firstStop (stop : Nat → Bool) : Nat → Nat → Nat
  | i, 0 => i
  | i, n + 1 => if stop i then i else firstStop stop (i + 1) n

/-- COMPUTE_MATCHING_BITS o, k, f (rule R156): the first bit from `k` to 55 where the assumed path breaks, else 56. -/
def execComputeMatchingBits (o k : Nat) (f : Bool) (s : State) : Host.Outcome State Fault Refusal :=
  runCommand (.computeMatchingBits o k f) s <|
    if k > 56 then .raise .bitIndexRange
    else if !s.bufInRange o 168 then .raise .bufferRange
    else .done (s.setResult (firstStop (s.pathBreaks o f) k (56 - k)))

end Sys2Proof.Machine
end

