-- ==== Sys2Proof/Machine/Dispatch.lean ====
section
/-! DEFINITION. The dispatch: one arm per command of 30_encoding.md rule R84. -/

namespace Sys2Proof.Machine

def exec (i : Instr) (s : State) : Host.Outcome State Fault Refusal :=
  match i with
  | .clear => Sys2Proof.Machine.execClear s
  | .addPattern b n => Sys2Proof.Machine.execAddPattern b n s
  | .addPatternT b t => Sys2Proof.Machine.execAddPatternT b t s
  | .addReset => Sys2Proof.Machine.execAddReset s
  | .addWrite a n => Sys2Proof.Machine.execAddWrite a n s
  | .addRead n => Sys2Proof.Machine.execAddRead n s
  | .addCommand b => Sys2Proof.Machine.execAddCommand b s
  | .addMatchRom u => Sys2Proof.Machine.execAddMatchRom u s
  | .addEnumRom u => Sys2Proof.Machine.execAddEnumRom u s
  | .decode o a n => Sys2Proof.Machine.execDecode o a n s
  | .sample o => Sys2Proof.Machine.execSample o s
  | .enumBitInfo o k => Sys2Proof.Machine.execEnumBitInfo o k s
  | .computeMatchingBits o k f => Sys2Proof.Machine.execComputeMatchingBits o k f s
  | .crcCalc a n => Sys2Proof.Machine.execCrcCalc a n s
  | .crcByte b => Sys2Proof.Machine.execCrcByte b s
  | .romCheck a => Sys2Proof.Machine.execRomCheck a s
  | .bitGet a k => Sys2Proof.Machine.execBitGet a k s
  | .bitSet a k v => Sys2Proof.Machine.execBitSet a k v s
  | .execute => Sys2Proof.Machine.execExecute s
  | .pause t => Sys2Proof.Machine.execPause t s
  | .rdreg r => Sys2Proof.Machine.execRdreg r s
  | .wrreg r v => Sys2Proof.Machine.execWrreg r v s
  | .faultAck => Sys2Proof.Machine.execFaultAck s

end Sys2Proof.Machine
end

