-- ==== Sys2Proof/Machine/Step.lean ====
section
/-! DEFINITION. One step of the machine: the agent whose move is next takes it (00_scope.md rule R8). A command is one
atomic step of the BLOCK (20_memory.md rule R67); RST, CLOCK and HOST moves fall between such steps. -/

namespace Sys2Proof.Machine

/-- BLOCK runs the word it has accepted; with none it waits for the first command word on CMD (rule R250). -/
def blockStep (s : State) : Host.Outcome State Fault Refusal :=
  match s.cmd with
  | none => .next s
  | some w =>
    match decodeWord w with
    | .command i => exec i s
    | .illegal _ => illegalCommand w s

/-- The next move of the schedule; BLOCK moves when the schedule is empty, and when a word is offered on CMD while the
block is not ready for it (rule R20). -/
def step (s : State) : Host.Outcome State Fault Refusal :=
  match s.moves with
  | [] => blockStep s
  | .block :: ms => blockStep { s with moves := ms }
  | .clock t :: ms => .next ({ s with moves := ms }.advanceClock t)
  | .hostWrite a b :: ms => { s with moves := ms }.hostStore a.toNat b
  | .reset :: ms => .next { s with moves := ms }.rst
  | .command w :: ms =>
    match s.cmd with
    | none => .next ({ s with moves := ms }.accept w)
    | some _ => blockStep s

/-- The command word whose bits are `w` accepted on CMD and the BLOCK's move next, so that the very next step runs it.
There is no fetch: a word comes to the block from the HOST through CMD (rule R21, assumption 9). -/
def State.withFetchWord (s : State) (nbits w : Nat) : State :=
  { s.accept (BitVec.ofNat 64 (w % 2 ^ nbits)) with moves := .block :: s.moves }

end Sys2Proof.Machine
end

