-- ==== Sys2Proof/Machine/Pseudo.lean ====
section
/-! DEFINITION. The pseudo-instructions of 30_encoding.md rule R89: each stands for the commands the assembler expands
it into (42_txbuf_encode.md rules R124, R130, R133, R135; 44_bus_timing.md rules R193, R194, R196). -/

namespace Sys2Proof.Machine

/-- The eight pseudo-instructions of rule R89. -/
inductive Pseudo where
  | addDelay (n : Nat)
  | addDelayT (t : Nat)
  | addSkipRom
  | addReadRom
  | setSpeed (v : BitVec 48)
  | busReset
  | devWrite (u : Nat) (c : Byte) (a n : Nat)
  | devRead (u : Nat) (c : Byte) (a n : Nat)
  deriving DecidableEq, Repr

/-- The expansion column of rule R89. -/
def Pseudo.expand : Pseudo → List Instr
  | .addDelay n => [.addPattern 0xFF n]
  | .addDelayT t => [.addPatternT 0xFF t]
  | .addSkipRom => [.addCommand 0xCC]
  | .addReadRom => [.addCommand 0x33, .addRead 8]
  | .setSpeed v => [.wrreg 0x04 v]
  | .busReset => [.clear, .addReset, .execute, .sample 8]
  | .devWrite u c a n => [.clear, .addReset, .addMatchRom u, .addCommand c, .addWrite a n, .execute]
  | .devRead u c a n => [.clear, .addReset, .addMatchRom u, .addCommand c, .addRead n, .execute, .decode 91 a n]

/-- How a host's sequence of commands ends. -/
inductive HostRun (α : Type) where
  /-- every command completed -/
  | ok (a : α) (s : State)
  /-- a fault is latched at a command's CMD_DONE and the sequence stops: the command faulted (45_rom_search.md rule
  R204), or the latch is an old one (assumption 18) -/
  | faulted (latch : FaultLatch) (s : State)
  /-- EXECUTE waits for the CLOCK, and the schedule has no further move (44_bus_timing.md rule R183) -/
  | held (s : State)
  /-- RST dropped the command, so no CMD_DONE comes (70_reset_and_hazards.md rule R251) -/
  | dropped (s : State)
  /-- the model's run ended -/
  | stopped (f : Fault)
  /-- an instruction had no meaning; no arm of this model answers so -/
  | refused (r : Refusal)
  /-- the recursion bound was reached (rule R205 says it never is) -/
  | exhausted
  deriving DecidableEq, Repr

/-- Sequencing of host work: the next part runs where the one before it completed. -/
def HostRun.andThen {α β : Type} : HostRun α → (α → State → HostRun β) → HostRun β
  | .ok a s, k => k a s
  | .faulted l s, _ => .faulted l s
  | .held s, _ => .held s
  | .dropped s, _ => .dropped s
  | .stopped f, _ => .stopped f
  | .refused r, _ => .refused r
  | .exhausted, _ => .exhausted

/-- Steps until CMD_DONE is high, at most `n` of them. A fault latched when CMD_DONE rises ends the sequence, also one
that was latched before the command was issued: the spec does not say what a host procedure begun then does with the
commands that rule R223 discards, and that it ends at the first of them with the old latch is the model's choice
(assumption 18). -/
def awaitDone : Nat → State → HostRun Unit
  | 0, s => .held s
  | n + 1, s =>
    match step s with
    | .next t =>
      if t.cmdDone then
        match t.latch with
        | some l => .faulted l t
        | none => .ok () t
      else if t.cmd.isSome then awaitDone n t
      else .dropped t
    | .fault f => .stopped f
    | .refused r => .refused r

/-- HOST issues one command on CMD and waits for CMD_DONE; the schedule's moves fall where they stand. A block that is
not ready for a command accepts none. -/
def issue (i : Instr) (s : State) : HostRun Unit :=
  if s.cmd.isSome then .held s else awaitDone (s.moves.length + 1) (s.accept (encode i))

/-- HOST issues a sequence of commands, stopping at the first that does not complete. -/
def issueAll : List Instr → State → HostRun Unit
  | [], s => .ok () s
  | i :: is, s => (issue i s).andThen fun _ t => issueAll is t

/-- `BUS_RESET` with its answer "any device present", true iff the final RESULT is 0 (rule R193). -/
def busReset (s : State) : HostRun Bool :=
  (issueAll (Pseudo.expand .busReset) s).andThen fun _ t => .ok (t.result == 0) t

end Sys2Proof.Machine
end

