-- ==== Sys2Proof/Machine/Search.lean ====
section
/-! DEFINITION. The reference host procedure of 45_rom_search.md: SCAN and SEARCH over the block's commands. It is host
software layered on the block (00_scope.md rule R7); its variables are host state. -/

namespace Sys2Proof.Machine

/-- A UUID held by the host: its 7 bytes (41_rom_code.md rule R110). -/
abbrev Uuid := List Byte

/-- NULL_VALUE, the search's starting prefix (rule R114). -/
def nullUuid : Uuid := List.replicate 7 0x00

/-- A copy of the UUID with bit `d` set to 1 (rule R201, the semantics of BIT_SET). -/
def Uuid.withBit (u : Uuid) (d : Nat) : Uuid := u.modify (d / 8) fun b => setBit b (d % 8) true

/-- HOST writes bytes to HMEM, one after the other, between commands (rule R62). -/
def hostStoreAll : Nat → List Byte → State → HostRun Unit
  | _, [], s => .ok () s
  | a, b :: bs, s =>
    match s.hostStore a b with
    | .next t => hostStoreAll (a + 1) bs t
    | .fault f => .stopped f
    | .refused r => .refused r

/-- The transaction of one search step: prefix to HMEM, reset, probe region, exchange; its value is the enum region's
start `e` (rule R201). -/
def searchTransaction (w : Nat) (u : Uuid) (s : State) : HostRun Nat :=
  (hostStoreAll w u s).andThen fun _ s1 =>
  (issueAll [.clear, .addReset, .addEnumRom w] s1).andThen fun _ s2 =>
  (issue .execute s2).andThen fun _ s3 => .ok s2.result.toNat s3

/-- `SEARCH(uuid, idx_bit)` of rule R201, with `fuel` bounding the recursion (rule R205) and `w` the scratch area W. The
0-branch is explored before the 1-branch (rule R203); a step where no device answers records nothing (rule R202); a
fault aborts the search (rule R204); one latched before it begins does so at its first command (assumption 18). -/
def search (w : Nat) : Nat → Uuid → Nat → State → HostRun (List Uuid)
  | 0, _, _, _ => .exhausted
  | fuel + 1, u, d, s =>
    (searchTransaction w u s).andThen fun e s1 =>
    (issue (.enumBitInfo e d) s1).andThen fun _ s2 =>
    let hz := s2.result.getLsbD 0
    let ho := s2.result.getLsbD 1
    let zeroBranch : HostRun (List Uuid) :=
      if hz then
        (issue (.computeMatchingBits e (d + 1) false) s2).andThen fun _ s3 =>
          if d + 1 = 56 ∨ s3.result.toNat = 56 then .ok [u] s3 else search w fuel u s3.result.toNat s3
      else .ok [] s2
    zeroBranch.andThen fun zeros s4 =>
      if ho then
        if d + 1 = 56 then .ok (zeros ++ [u.withBit d]) s4
        else (search w fuel (u.withBit d) (d + 1) s4).andThen fun ones s5 => .ok (zeros ++ ones) s5
      else .ok zeros s4

/-- `SCAN(speed)` of rule R200. Depth is at most 56 (rule R205). -/
def scan (w : Nat) (speed : BitVec 48) (s : State) : HostRun (List Uuid) :=
  (issueAll (Pseudo.expand (.setSpeed speed)) s).andThen fun _ s1 => search w 56 nullUuid 0 s1

end Sys2Proof.Machine
end

