-- ==== Sys2Proof/Safety.lean ====
section
/-! DEFINITION. What claims about runs are stated in: the invariant of the machine, the runs of it, and a run without a
fault (60_exceptions.md rule R226). -/

namespace Sys2Proof.Machine

/-- Every address of the memory lies below `size`. -/
def Memory.below (m : Memory) (size : Nat) : Bool := m.all fun c => decide (c.1 < size)

/-- The invariant of the block. -/
structure Inv (s : State) : Prop where
  /-- the parameters are legal (rule R9) -/
  params : s.params.legal = true
  /-- BUF keeps its canonical form -/
  buf_wf : s.buf.wf = true
  /-- HMEM keeps its canonical form -/
  hmem_wf : s.hmem.wf = true
  /-- BUF holds no byte outside 0..BUF_CAP-1 (rule R22) -/
  buf_below : s.buf.below s.params.bufCap.toNat = true
  /-- HMEM holds no byte outside 0..HMEM_SIZE-1 (rule R69) -/
  hmem_below : s.hmem.below s.params.hmemSize = true
  /-- `CURSOR <= BUF_CAP` (rule R23) -/
  cursor_le : s.cursor.toNat ≤ s.params.bufCap.toNat
  /-- every byte below CURSOR has been written, so no command reads an unspecified byte (rule R25) -/
  used_written : ∀ j, j < s.cursor.toNat → (s.buf.read j).isSome = true
  /-- SPI_HZ and the clock request follow SPEED.SEL (rule R33) -/
  clock_follows : s.spiHz = s.params.effectiveHz s.speedSel ∧ s.spiClkSet = nominalHz s.speedSel
  /-- SEL is overdrive only where the bus supports it (rule R28) -/
  speed_supported : s.params.maxSpeed = .regular → s.speedSel = .regular
  /-- without a strong pull-up pin ENGAGED stays 0 (rule R189) -/
  engaged_needs_pin : s.params.spuMode = .none → s.spuEngaged = false
  /-- CMD_DONE is low while a command is accepted and not completed (rule R20, assumption 10) -/
  busy_not_done : s.cmd.isSome = true → s.cmdDone = false
  /-- the fault that STATUS latches is the last one of fault_log (rules R222 and R226) -/
  latch_logged : ∀ l, s.latch = some l → ∃ w, s.faultLog.getLast? = some (l.code, w) ∧ l.op = BitVec.ofNat 8 (field w 7 0)

/-- The command takes the fault and does nothing else: STATUS, fault_log and CMD_DONE as rule R222 says, every other
field as before. -/
def FaultsWith (i : Instr) (s : State) (c : FaultCode) : Prop :=
  exec i s = .next { s with
    latch := some { code := c, op := BitVec.ofNat 8 i.opcode.code }
    faultLog := s.faultLog ++ [(c, encode i)]
    cmd := none
    cmdDone := true }

/-- The row's encoding, "format `f`, OP `code`", and that a word of it with a 1 in a reserved bit of the format takes
ILLEGAL_COMMAND and does nothing else (rules R82, R84 and R86). -/
def RejectsReservedBits (op : Opcode) (code : Nat) (f : Format) : Prop :=
  op.code = code ∧ op.format = f ∧
  ∀ (s : State) (w : Word), s.latch = none → s.moves = [] → s.cmd = some w → field w 7 0 = code → f.clean w = false →
    step s = .next { s with
      latch := some { code := .illegalCommand, op := BitVec.ofNat 8 code }
      faultLog := s.faultLog ++ [(.illegalCommand, w)]
      cmd := none
      cmdDone := true }

/-- The command completes, appending the `k` bytes `f 0, f 1, …` at CURSOR with RESULT = `ret`, and writes nothing else
(rule R120): CURSOR grows by `k`, every other byte of BUF and every other field is as before. -/
def Appends (i : Instr) (s : State) (k : Nat) (f : Nat → Byte) (ret : Nat) : Prop :=
  ∃ t, exec i s = .next t ∧
    t = { s with buf := t.buf, cursor := t.cursor, result := t.result, cmd := none, cmdDone := true } ∧
    t.cursor.toNat = s.cursor.toNat + k ∧
    t.result.toNat = ret ∧
    (∀ j, j < k → t.buf.read (s.cursor.toNat + j) = some (f j)) ∧
    (∀ a, a < s.cursor.toNat ∨ s.cursor.toNat + k ≤ a → t.buf.read a = s.buf.read a)

/-- One step that goes on. -/
def Steps (s t : State) : Prop := step s = .next t

/-- The states of the runs from `s`. -/
inductive Reachable (s : State) : State → Prop where
  | start : Reachable s s
  | tail {t u : State} : Reachable s t → Steps t u → Reachable s u

/-- The premise of rule R226: no fault has been raised in the run. -/
def FaultFree (s : State) : Prop := s.faultLog = []

end Sys2Proof.Machine
end

