-- ==== Sys2Proof/Certificates/Slice0/Obligations.lean ====
section
/-! DEFINITION. The statements for the provers, from the numbered rules of spec/. `s.latch = none` says that no fault is
latched (STATUS.FAULTED = 0); a statement about `exec` holds in every state that meets its premises, reached or not. -/

open Sys2Proof Sys2Proof.Machine

/-! ### Encoding (30_encoding.md) -/

/-- R90: the three worked encodings, in both directions. -/
def Obligations.WorkedEncodingsDecodeAndEncode : Prop :=
  decodeWord 0x000000000004FF11 = .command (.addPattern 0xFF 4) ∧
  decodeWord 0x0000000100130023 = .command (.computeMatchingBits 19 1 false) ∧
  decodeWord 0x00080020005B0020 = .command (.decode 91 0x20 8) ∧
  encode (.addPattern 0xFF 4) = 0x000000000004FF11 ∧
  encode (.computeMatchingBits 19 1 false) = 0x0000000100130023 ∧
  encode (.decode 91 0x20 8) = 0x00080020005B0020

/-- R81, R83, R84: for every command whose operands fit their fields, decoding its word gives it back. -/
def Obligations.DecodeOfEncodeIsTheCommand : Prop :=
  ∀ i : Instr, i.wellFormed = true → decodeWord (encode i) = .command i

/-- R81 to R84, R86: every word that decodes to a command is that command's encoding, bit for bit, and the command's
operands fit; so a legal word has one meaning and no bit of it is dropped. -/
def Obligations.EncodeOfDecodeIsTheWord : Prop :=
  ∀ (w : Word) (i : Instr), decodeWord w = .command i → encode i = w ∧ i.wellFormed = true

/-- R85: a word whose opcode lies in one of the listed ranges takes ILLEGAL_COMMAND, and nothing else changes. -/
def Obligations.ReservedOpcodeTakesIllegalCommand : Prop :=
  ∀ (s : State) (w : Word) (op : Nat), field w 7 0 = op →
    (op ≤ 0x0F ∨ (0x19 ≤ op ∧ op ≤ 0x1F) ∨ (0x24 ≤ op ∧ op ≤ 0x2F) ∨ (0x33 ≤ op ∧ op ≤ 0x37) ∨
      (0x3A ≤ op ∧ op ≤ 0x3F) ∨ (0x42 ≤ op ∧ op ≤ 0x47) ∨ (0x4A ≤ op ∧ op ≤ 0x4E) ∨ (0x50 ≤ op ∧ op ≤ 0xFF)) →
    s.latch = none → s.moves = [] → s.cmd = some w →
    step s = .next { s with
      latch := some { code := .illegalCommand, op := BitVec.ofNat 8 op }
      faultLog := s.faultLog ++ [(.illegalCommand, w)]
      cmd := none
      cmdDone := true }

/-- R86: a 1 in a reserved bit of any row's format takes ILLEGAL_COMMAND and nothing else, and every word is one
command or illegal. -/
def Obligations.ReservedBitTakesIllegalCommand : Prop :=
  (∀ op : Opcode, RejectsReservedBits op op.code op.format) ∧
  (∀ w : Word, (∃ i, decodeWord w = .command i ∧ ∀ j, decodeWord w = .command j → j = i) ∨
    ∃ why, decodeWord w = .illegal why)

/-! ### Steps (00_scope.md R8, 20_memory.md R67, 10_state.md R20) -/

/-- R67, R8: a step of the BLOCK runs the word accepted on CMD: `exec` of the command it decodes to, ILLEGAL_COMMAND
(R85, R86, R222) where it is none and no fault is latched, a discard (R223) where one is. The BLOCK moves when the
schedule is empty, at a `.block` entry, which is used up, and while a further word offered on CMD waits; the schedule and
these three cases of it are the model's choice (assumption 11). -/
def Obligations.StepRunsTheAcceptedCommand : Prop :=
  ∀ (s u : State) (w : Word), s.cmd = some w →
    ((s.moves = [] ∧ u = s) ∨ (∃ ms, s.moves = .block :: ms ∧ u = { s with moves := ms }) ∨
      (∃ v ms, s.moves = .command v :: ms ∧ u = s)) →
    (∀ i, decodeWord w = .command i → step s = exec i u) ∧
    (∀ why, decodeWord w = .illegal why → s.latch = none →
      step s = .next { u with
        latch := some { code := .illegalCommand, op := BitVec.ofNat 8 (field w 7 0) }
        faultLog := s.faultLog ++ [(.illegalCommand, w)]
        cmd := none
        cmdDone := true }) ∧
    (∀ why l, decodeWord w = .illegal why → s.latch = some l →
      step s = .next { u with cmd := none, cmdDone := true })

/-- The placed word is what the very next step runs: the model's stand-in for the HOST's handshake (assumption 9). -/
def Obligations.PlacedWordRunsNext : Prop :=
  ∀ (s : State) (i : Instr), i.wellFormed = true →
    step (s.withFetchWord 64 (encode i).toNat) = exec i { s with cmd := some (encode i), cmdDone := false }

/-- R20: a block that is ready accepts the word the HOST offers and CMD_DONE falls; with no word it waits unchanged; a
HOST write to HMEM between commands lands on its byte alone, and one during a command is the race of R67, for which
the model has no step (the fault's name, CMD_DONE's fall and the schedule are the model's: assumptions 10 to 12). -/
def Obligations.HostMovesTakeEffectBetweenCommands : Prop :=
  ∀ (s : State) (ms : List Move),
    (s.cmd = none → s.moves = [] → step s = .next s) ∧
    (∀ w, s.cmd = none → s.moves = .command w :: ms →
      step s = .next { s with cmd := some w, cmdDone := false, moves := ms }) ∧
    (∀ (a : BitVec 16) (b : Byte), s.cmd = none → s.moves = .hostWrite a b :: ms → a.toNat < s.params.hmemSize →
      ∃ t, step s = .next t ∧ t = { s with hmem := t.hmem, moves := ms } ∧ t.hmem.read a.toNat = some b ∧
        ∀ x, x ≠ a.toNat → t.hmem.read x = s.hmem.read x) ∧
    (∀ (w : Word) (a : BitVec 16) (b : Byte), s.cmd = some w → s.moves = .hostWrite a b :: ms →
      step s = .fault .hostRace)

/-! ### Faults (60_exceptions.md) -/

/-- R223: while a fault is latched every command but RDREG and FAULT_ACK is discarded, writing nothing, not even
STATUS, and raising CMD_DONE; so are an RDREG that would fault and a word that is no command; RDREG and FAULT_ACK
execute normally. -/
def Obligations.FaultedBlockDiscardsCommands : Prop :=
  ∀ (s : State) (l : FaultLatch), s.latch = some l →
    (∀ i, (∀ r, i ≠ .rdreg r) → i ≠ .faultAck → exec i s = .next { s with cmd := none, cmdDone := true }) ∧
    (∀ r, 0x0B < r → exec (.rdreg r) s = .next { s with cmd := none, cmdDone := true }) ∧
    (∀ w why, s.cmd = some w → decodeWord w = .illegal why → s.moves = [] →
      step s = .next { s with cmd := none, cmdDone := true }) ∧
    (∀ r reg, regOfNumber r = some reg →
      exec (.rdreg r) s = .next { s with result := BitVec.ofNat 64 (s.regValue reg), cmd := none, cmdDone := true }) ∧
    exec .faultAck s = .next { s with latch := none, cmd := none, cmdDone := true }

/-- R222: a command word `w` that latches a fault writes STATUS, fault_log and CMD_DONE and nothing else;
TRANSPORT_ERROR alone, which only EXECUTE raises, also leaves EXECUTE's padding, the cleared SPU.ENGAGED and arbitrary BUF bytes (and
the exchange stays in the BUS agent's history). -/
def Obligations.FaultEntryIsPrecise : Prop :=
  ∀ (s t : State) (w : Word) (l : FaultLatch), s.latch = none → s.moves = [] → s.cmd = some w →
    step s = .next t → t.latch = some l →
    l.op.toNat = field w 7 0 ∧
    (l.code ≠ .transportError →
      t = { s with latch := some l, faultLog := s.faultLog ++ [(l.code, w)], cmd := none, cmdDone := true }) ∧
    (l.code = .transportError → decodeWord w = .command .execute ∧
      t = { s with
        latch := some l
        faultLog := s.faultLog ++ [(l.code, w)]
        cmd := none
        cmdDone := true
        buf := t.buf
        cursor := t.cursor
        spuEngaged := false
        busAnswers := t.busAnswers
        busLog := t.busLog })

/-- R225: FAULT_ACK clears STATUS's fault fields and changes nothing else, whether or not a fault is latched; with a
reserved bit set it faults as any command, or is discarded while a fault is latched. -/
def Obligations.FaultAckClearsTheLatch : Prop :=
  (∀ s : State, exec .faultAck s = .next { s with latch := none, cmd := none, cmdDone := true }) ∧
  RejectsReservedBits .faultAck 0x4F .Z ∧
  (∀ (s : State) (w : Word) (l : FaultLatch), s.latch = some l → s.cmd = some w → s.moves = [] →
    field w 7 0 = 0x4F → w ≠ 0x4F → step s = .next { s with cmd := none, cmdDone := true })

/-- R226: fault_log is appended at every fault entry and never cleared, by no move of any agent: each step leaves the
log as it was or, exactly when it latches a fault that was not latched before, adds one entry with that code. -/
def Obligations.FaultLogIsAppendOnly : Prop :=
  ∀ s t : State, step s = .next t →
    (t.faultLog = s.faultLog ∧ (s.latch = none → t.latch = none)) ∨
    (s.latch = none ∧ ∃ l w, t.latch = some l ∧ t.faultLog = s.faultLog ++ [(l.code, w)] ∧ s.cmd = some w)

/-! ### Transaction buffer encoder (42_txbuf_encode.md) -/

/-- R121: CLEAR sets CURSOR to 0; BUF, RESULT and everything else stay. -/
def Obligations.ClearResetsTheCursor : Prop :=
  (∀ s : State, s.latch = none → exec .clear s = .next { s with cursor := 0, cmd := none, cmdDone := true }) ∧
  RejectsReservedBits .clear 0x10 .Z

/-- R122: ADD_PATTERN appends `n` copies and returns their start, or overflows and writes nothing. -/
def Obligations.AddPatternAppendsCopies : Prop :=
  (∀ (s : State) (b : Byte) (n : Nat), s.latch = none →
    (s.cursor.toNat + n ≤ s.params.bufCap.toNat →
      Appends (.addPattern b n) s n (fun _ => b) s.cursor.toNat) ∧
    (s.params.bufCap.toNat < s.cursor.toNat + n → FaultsWith (.addPattern b n) s .bufferOverflow)) ∧
  RejectsReservedBits .addPattern 0x11 .BN

/-- R123: ADD_PATTERN_T appends the least `n` bytes whose time at SPI_HZ is at least `t`: `n` is `ceil(t * SPI_HZ / (8 *
10^9))`, said here without division. -/
def Obligations.AddPatternTCoversTheDuration : Prop :=
  (∀ (s : State) (b : Byte) (t n : Nat), s.latch = none →
    t * s.spiHz.toNat ≤ n * (8 * 1000000000) → (∀ m, t * s.spiHz.toNat ≤ m * (8 * 1000000000) → n ≤ m) →
    (s.cursor.toNat + n ≤ s.params.bufCap.toNat →
      Appends (.addPatternT b t) s n (fun _ => b) s.cursor.toNat) ∧
    (s.params.bufCap.toNat < s.cursor.toNat + n → FaultsWith (.addPatternT b t) s .bufferOverflow)) ∧
  RejectsReservedBits .addPatternT 0x12 .BT

/-- R126: ADD_RESET appends seven 0x00 and four 0xFF and returns the offset 8 bytes after its start. -/
def Obligations.AddResetAppendsResetPulse : Prop :=
  (∀ s : State, s.latch = none →
    (s.cursor.toNat + 11 ≤ s.params.bufCap.toNat →
      Appends .addReset s 11 (fun j => if j < 7 then 0x00 else 0xFF) (s.cursor.toNat + 8)) ∧
    (s.params.bufCap.toNat < s.cursor.toNat + 11 → FaultsWith .addReset s .bufferOverflow)) ∧
  RejectsReservedBits .addReset 0x13 .Z

/-- R127: bit `j` of `d[k]` lands at `BUF[s + 8k + j]`, as 0x7F for 1 and 0x03 for 0; the faults come in the order
HMEM_RANGE, BUFFER_OVERFLOW, HMEM_UNWRITTEN. -/
def Obligations.AddWriteEncodesEachBit : Prop :=
  (∀ (s : State) (a n : Nat), s.latch = none →
    (∀ d, a + n ≤ s.params.hmemSize → s.cursor.toNat + 8 * n ≤ s.params.bufCap.toNat →
      s.hmem.readAll a n = some d →
      Appends (.addWrite a n) s (8 * n) (fun j => if (d.getD (j / 8) 0).getLsbD (j % 8) then 0x7F else 0x03)
        s.cursor.toNat) ∧
    (s.params.hmemSize < a + n → FaultsWith (.addWrite a n) s .hmemRange) ∧
    (a + n ≤ s.params.hmemSize → s.params.bufCap.toNat < s.cursor.toNat + 8 * n →
      FaultsWith (.addWrite a n) s .bufferOverflow) ∧
    (a + n ≤ s.params.hmemSize → s.cursor.toNat + 8 * n ≤ s.params.bufCap.toNat →
      (∃ k, k < n ∧ s.hmem.read (a + k) = none) →
      exec (.addWrite a n) s = .fault (.hmemUnwritten (.addWrite a n)))) ∧
  RejectsReservedBits .addWrite 0x14 .AN

/-- R128: ADD_READ appends `8n` probe bytes 0x7F and returns their start. -/
def Obligations.AddReadAppendsProbes : Prop :=
  (∀ (s : State) (n : Nat), s.latch = none →
    (s.cursor.toNat + 8 * n ≤ s.params.bufCap.toNat →
      Appends (.addRead n) s (8 * n) (fun _ => 0x7F) s.cursor.toNat) ∧
    (s.params.bufCap.toNat < s.cursor.toNat + 8 * n → FaultsWith (.addRead n) s .bufferOverflow)) ∧
  RejectsReservedBits .addRead 0x15 .N

/-- R129: ADD_COMMAND appends the eight slots of its byte, LSB first. -/
def Obligations.AddCommandEncodesItsByte : Prop :=
  (∀ (s : State) (b : Byte), s.latch = none →
    (s.cursor.toNat + 8 ≤ s.params.bufCap.toNat →
      Appends (.addCommand b) s 8 (fun j => if b.getLsbD j then 0x7F else 0x03) s.cursor.toNat) ∧
    (s.params.bufCap.toNat < s.cursor.toNat + 8 → FaultsWith (.addCommand b) s .bufferOverflow)) ∧
  RejectsReservedBits .addCommand 0x16 .B

/-- R131: ADD_MATCH_ROM appends the slots of 0x55, of the 7 UUID bytes, and of the CRC it computes over them; the byte
at `u + 7` plays no part. -/
def Obligations.AddMatchRomSendsTheComputedCrc : Prop :=
  (∀ (s : State) (u : Nat), s.latch = none →
    (∀ id, u + 7 ≤ s.params.hmemSize → s.cursor.toNat + 72 ≤ s.params.bufCap.toNat → s.hmem.readAll u 7 = some id →
      Appends (.addMatchRom u) s 72
        (fun j => if (((0x55 : Byte) :: (id ++ [crc8 0x00 id])).getD (j / 8) 0).getLsbD (j % 8) then 0x7F else 0x03)
        s.cursor.toNat) ∧
    (s.params.hmemSize < u + 7 → FaultsWith (.addMatchRom u) s .hmemRange) ∧
    (u + 7 ≤ s.params.hmemSize → s.params.bufCap.toNat < s.cursor.toNat + 72 →
      FaultsWith (.addMatchRom u) s .bufferOverflow) ∧
    (u + 7 ≤ s.params.hmemSize → s.cursor.toNat + 72 ≤ s.params.bufCap.toNat →
      (∃ k, k < 7 ∧ s.hmem.read (u + k) = none) →
      exec (.addMatchRom u) s = .fault (.hmemUnwritten (.addMatchRom u)))) ∧
  RejectsReservedBits .addMatchRom 0x17 .A

/-- R132: ADD_ENUM_ROM appends the slots of 0xF0 and then, for each bit `i` of 0..55 in ascending order, two probes and
the direction slot of bit `i & 7` of UUID byte `i >> 3`; RESULT is the region's start. -/
def Obligations.AddEnumRomAppendsTheSearchRegion : Prop :=
  (∀ (s : State) (u : Nat), s.latch = none →
    (∀ id, u + 7 ≤ s.params.hmemSize → s.cursor.toNat + 176 ≤ s.params.bufCap.toNat → s.hmem.readAll u 7 = some id →
      Appends (.addEnumRom u) s 176
        (fun j =>
          if j < 8 then (if (0xF0 : Byte).getLsbD j then 0x7F else 0x03)
          else if (j - 8) % 3 = 2 then
            (if (id.getD ((j - 8) / 3 / 8) 0).getLsbD ((j - 8) / 3 % 8) then 0x7F else 0x03)
          else 0x7F)
        (s.cursor.toNat + 8)) ∧
    (s.params.hmemSize < u + 7 → FaultsWith (.addEnumRom u) s .hmemRange) ∧
    (u + 7 ≤ s.params.hmemSize → s.params.bufCap.toNat < s.cursor.toNat + 176 →
      FaultsWith (.addEnumRom u) s .bufferOverflow) ∧
    (u + 7 ≤ s.params.hmemSize → s.cursor.toNat + 176 ≤ s.params.bufCap.toNat →
      (∃ k, k < 7 ∧ s.hmem.read (u + k) = none) →
      exec (.addEnumRom u) s = .fault (.hmemUnwritten (.addEnumRom u)))) ∧
  RejectsReservedBits .addEnumRom 0x18 .A

/-- R133: issued by the HOST, the pseudo-instruction ADD_READ_ROM appends the slots of 0x33 and 64 probes, and leaves
RESULT at the start of the probes. -/
def Obligations.ReadRomSequenceReturnsProbeStart : Prop :=
  ∀ s : State, s.latch = none → s.cmd = none → s.moves = [] → s.cursor.toNat + 72 ≤ s.params.bufCap.toNat →
    ∃ t, issueAll (Pseudo.expand .addReadRom) s = .ok () t ∧
      t = { s with buf := t.buf, cursor := t.cursor, result := t.result, cmdDone := true } ∧
      t.cursor.toNat = s.cursor.toNat + 72 ∧ t.result.toNat = s.cursor.toNat + 8 ∧
      (∀ j, j < 8 → t.buf.read (s.cursor.toNat + j) = some (if (0x33 : Byte).getLsbD j then 0x7F else 0x03)) ∧
      (∀ j, 8 ≤ j → j < 72 → t.buf.read (s.cursor.toNat + j) = some 0x7F) ∧
      (∀ a, a < s.cursor.toNat ∨ s.cursor.toNat + 72 ≤ a → t.buf.read a = s.buf.read a)

/-! ### Sampler, decoder, collision detector (43_sample_decode.md) -/

/-- R150: only bits 6, 5 and 4 matter, and HIGH needs all three. -/
def Obligations.SampleLooksAtThreeBits : Prop :=
  ∀ b : Byte, sample b = (b.getLsbD 6 && b.getLsbD 5 && b.getLsbD 4)

/-- R152: bit `j` of output byte `k` is the sampled level of slot `o + 8k + j`, LOW written as 0; nothing else of HMEM
and no other field changes, RESULT included; the faults come in the order HMEM_RANGE, BUFFER_RANGE. -/
def Obligations.DecodeWritesSampledBytes : Prop :=
  (∀ (s : State) (o a n : Nat), s.latch = none →
    (a + n ≤ s.params.hmemSize → o + 8 * n ≤ s.cursor.toNat →
      ∃ t, exec (.decode o a n) s = .next t ∧ t = { s with hmem := t.hmem, cmd := none, cmdDone := true } ∧
        (∀ k, k < n → ∃ b, t.hmem.read (a + k) = some b ∧
          ∀ j, j < 8 → b.getLsbD j = (s.bufByte (o + 8 * k + j) &&& 0x70 == 0x70)) ∧
        (∀ x, x < a ∨ a + n ≤ x → t.hmem.read x = s.hmem.read x)) ∧
    (s.params.hmemSize < a + n → FaultsWith (.decode o a n) s .hmemRange) ∧
    (a + n ≤ s.params.hmemSize → s.cursor.toNat < o + 8 * n → FaultsWith (.decode o a n) s .bufferRange)) ∧
  RejectsReservedBits .decode 0x20 .OAN

/-- R153: SAMPLE puts the sampled level of one byte below CURSOR into RESULT. -/
def Obligations.SampleReportsTheLevel : Prop :=
  (∀ (s : State) (o : Nat), s.latch = none →
    (o + 1 ≤ s.cursor.toNat →
      exec (.sample o) s = .next { s with
        result := if s.bufByte o &&& 0x70 = 0x70 then 1 else 0
        cmd := none
        cmdDone := true }) ∧
    (s.cursor.toNat < o + 1 → FaultsWith (.sample o) s .bufferRange)) ∧
  RejectsReservedBits .sample 0x21 .O

/-- R154, R155: RESULT bit 0 is has_zero (first probe LOW), bit 1 has_one (second probe LOW), bit 2 their or, bits 63:3
zero. -/
def Obligations.EnumBitInfoReportsTheProbes : Prop :=
  (∀ (s : State) (o k : Nat), s.latch = none →
    (k ≤ 55 → o + 168 ≤ s.cursor.toNat →
      ∃ t, exec (.enumBitInfo o k) s = .next t ∧ t = { s with result := t.result, cmd := none, cmdDone := true } ∧
        t.result.getLsbD 0 = !sample (s.bufByte (o + 3 * k)) ∧
        t.result.getLsbD 1 = !sample (s.bufByte (o + 3 * k + 1)) ∧
        t.result.getLsbD 2 = (!sample (s.bufByte (o + 3 * k)) || !sample (s.bufByte (o + 3 * k + 1))) ∧
        t.result.toNat < 8) ∧
    (55 < k → FaultsWith (.enumBitInfo o k) s .bitIndexRange) ∧
    (k ≤ 55 → s.cursor.toNat < o + 168 → FaultsWith (.enumBitInfo o k) s .bufferRange)) ∧
  RejectsReservedBits .enumBitInfo 0x22 .OS

/-- R156: RESULT is the first bit index `m` from `k` on where the assumed direction is absent or, with `f = 0`, both
values are present; 56 when there is none up to 55. Written over the sampled levels: probe `p0` LOW is has_zero, `p1`
LOW is has_one. -/
def Obligations.ComputeMatchingBitsFindsTheFirstBreak : Prop :=
  (∀ (s : State) (o k : Nat) (f : Bool), s.latch = none →
    (k ≤ 56 → o + 168 ≤ s.cursor.toNat →
      ∃ t, exec (.computeMatchingBits o k f) s = .next t ∧
        t = { s with result := t.result, cmd := none, cmdDone := true } ∧
        k ≤ t.result.toNat ∧ t.result.toNat ≤ 56 ∧
        (∀ i, k ≤ i → i < t.result.toNat →
          (sample (s.bufByte (o + 3 * i + 2)) = false → sample (s.bufByte (o + 3 * i)) = false) ∧
          (sample (s.bufByte (o + 3 * i + 2)) = true → sample (s.bufByte (o + 3 * i + 1)) = false) ∧
          (f = false →
            sample (s.bufByte (o + 3 * i)) = true ∨ sample (s.bufByte (o + 3 * i + 1)) = true)) ∧
        (t.result.toNat < 56 →
          (sample (s.bufByte (o + 3 * t.result.toNat + 2)) = false ∧
            sample (s.bufByte (o + 3 * t.result.toNat)) = true) ∨
          (sample (s.bufByte (o + 3 * t.result.toNat + 2)) = true ∧
            sample (s.bufByte (o + 3 * t.result.toNat + 1)) = true) ∨
          (f = false ∧ sample (s.bufByte (o + 3 * t.result.toNat)) = false ∧
            sample (s.bufByte (o + 3 * t.result.toNat + 1)) = false))) ∧
    (56 < k → FaultsWith (.computeMatchingBits o k f) s .bitIndexRange) ∧
    (k ≤ 56 → s.cursor.toNat < o + 168 → FaultsWith (.computeMatchingBits o k f) s .bufferRange)) ∧
  RejectsReservedBits .computeMatchingBits 0x23 .OSF

/-- R158: sampling a written slot gives its bit; with no EXECUTE between, DECODE of what ADD_WRITE appended writes the
data back, DECODE of what ADD_READ appended writes 0xFF bytes, and ENUM_BIT_INFO of what ADD_ENUM_ROM appended gives 0 at
every bit. -/
def Obligations.UnexchangedBufferDecodesToWhatWasWritten : Prop :=
  (∀ x : Bool, sample (enc x) = x) ∧
  (∀ (s : State) (a n a' : Nat) (d : List Byte), s.latch = none → a + n ≤ s.params.hmemSize →
    a' + n ≤ s.params.hmemSize → s.cursor.toNat + 8 * n ≤ s.params.bufCap.toNat → s.hmem.readAll a n = some d →
    ∃ t u, exec (.addWrite a n) s = .next t ∧ exec (.decode s.cursor.toNat a' n) t = .next u ∧
      u.hmem.readAll a' n = some d) ∧
  (∀ (s : State) (n a' : Nat), s.latch = none → a' + n ≤ s.params.hmemSize →
    s.cursor.toNat + 8 * n ≤ s.params.bufCap.toNat →
    ∃ t u, exec (.addRead n) s = .next t ∧ exec (.decode s.cursor.toNat a' n) t = .next u ∧
      u.hmem.readAll a' n = some (List.replicate n 0xFF)) ∧
  (∀ (s : State) (x k : Nat) (d : List Byte), s.latch = none → x + 7 ≤ s.params.hmemSize →
    s.cursor.toNat + 176 ≤ s.params.bufCap.toNat → s.hmem.readAll x 7 = some d → k ≤ 55 →
    ∃ t u, exec (.addEnumRom x) s = .next t ∧ exec (.enumBitInfo (s.cursor.toNat + 8) k) t = .next u ∧
      u.result = 0)

/-! ### CRC-8 (40_crc8.md) -/

/-- R106: one bit through the accumulator is a right shift with `mix` fed into bits 7, 3 and 2. -/
def Obligations.CrcBitIsTheFeedbackShiftRegister : Prop :=
  ∀ (acc : Byte) (bit mix : Bool), mix = (acc.getLsbD 0 ^^ bit) →
    (crcBit acc bit).getLsbD 7 = mix ∧ (crcBit acc bit).getLsbD 6 = acc.getLsbD 7 ∧
    (crcBit acc bit).getLsbD 5 = acc.getLsbD 6 ∧ (crcBit acc bit).getLsbD 4 = acc.getLsbD 5 ∧
    (crcBit acc bit).getLsbD 3 = (acc.getLsbD 4 ^^ mix) ∧ (crcBit acc bit).getLsbD 2 = (acc.getLsbD 3 ^^ mix) ∧
    (crcBit acc bit).getLsbD 1 = acc.getLsbD 2 ∧ (crcBit acc bit).getLsbD 0 = acc.getLsbD 1

/-- R104: the residue property. -/
def Obligations.CrcOfDataThenItsCrcIsZero : Prop :=
  ∀ (a : Byte) (bs : List Byte), crc8 a (bs ++ [crc8 a bs]) = 0x00

/-- R101: CRC_CALC puts the CRC of `n` HMEM bytes, start value 0, into RESULT and touches nothing else, CRC_ACC
included. -/
def Obligations.CrcCalcReportsTheCrc : Prop :=
  (∀ (s : State) (a n : Nat), s.latch = none →
    (∀ d, a + n ≤ s.params.hmemSize → s.hmem.readAll a n = some d →
      exec (.crcCalc a n) s = .next { s with
        result := (crc8 0x00 d).setWidth 64
        cmd := none
        cmdDone := true }) ∧
    (s.params.hmemSize < a + n → FaultsWith (.crcCalc a n) s .hmemRange) ∧
    (a + n ≤ s.params.hmemSize → (∃ k, k < n ∧ s.hmem.read (a + k) = none) →
      exec (.crcCalc a n) s = .fault (.hmemUnwritten (.crcCalc a n)))) ∧
  RejectsReservedBits .crcCalc 0x30 .AN

/-- R102: CRC_BYTE steps CRC_ACC by its byte and copies it to RESULT. -/
def Obligations.CrcByteStepsTheAccumulator : Prop :=
  (∀ (s : State) (b : Byte), s.latch = none →
    exec (.crcByte b) s = .next { s with
      crcAcc := crc8 s.crcAcc [b]
      result := (crc8 s.crcAcc [b]).setWidth 64
      cmd := none
      cmdDone := true }) ∧
  RejectsReservedBits .crcByte 0x31 .B

/-- R102: a sequence of CRC_BYTE commands over `b :: bs` leaves the CRC of the whole list in CRC_ACC and RESULT. -/
def Obligations.CrcByteSequenceComputesTheCrc : Prop :=
  ∀ (s : State) (b : Byte) (bs : List Byte), s.latch = none → s.cmd = none → s.moves = [] →
    issueAll ((b :: bs).map Instr.crcByte) s = .ok () { s with
      crcAcc := crc8 s.crcAcc (b :: bs)
      result := (crc8 s.crcAcc (b :: bs)).setWidth 64
      cmdDone := true }

/-- R103: ROM_CHECK passes with the CRC in RESULT when byte 7 is the CRC of bytes 0..6, and takes CRC_MISMATCH when it
is not. -/
def Obligations.RomCheckComparesTheStoredCrc : Prop :=
  (∀ (s : State) (a : Nat), s.latch = none →
    (∀ d c, a + 8 ≤ s.params.hmemSize → s.hmem.readAll a 7 = some d → s.hmem.read (a + 7) = some c →
      (crc8 0x00 d = c →
        exec (.romCheck a) s = .next { s with result := c.setWidth 64, cmd := none, cmdDone := true }) ∧
      (crc8 0x00 d ≠ c → FaultsWith (.romCheck a) s .crcMismatch)) ∧
    (s.params.hmemSize < a + 8 → FaultsWith (.romCheck a) s .hmemRange) ∧
    (a + 8 ≤ s.params.hmemSize → (∃ k, k < 8 ∧ s.hmem.read (a + k) = none) →
      exec (.romCheck a) s = .fault (.hmemUnwritten (.romCheck a)))) ∧
  RejectsReservedBits .romCheck 0x32 .A

/-! ### ROM-code bits (41_rom_code.md) -/

/-- R111, R112: BIT_GET puts bit `k & 7` of `HMEM[a + (k >> 3)]` into RESULT; BIT_INDEX_RANGE is checked before
HMEM_RANGE. -/
def Obligations.BitGetReadsTheBit : Prop :=
  (∀ (s : State) (a k : Nat), s.latch = none →
    (∀ b, k ≤ 55 → a + 7 ≤ s.params.hmemSize → s.hmem.read (a + k / 8) = some b →
      exec (.bitGet a k) s = .next { s with
        result := if b.getLsbD (k % 8) then 1 else 0
        cmd := none
        cmdDone := true }) ∧
    (55 < k → FaultsWith (.bitGet a k) s .bitIndexRange) ∧
    (k ≤ 55 → s.params.hmemSize < a + 7 → FaultsWith (.bitGet a k) s .hmemRange) ∧
    (k ≤ 55 → a + 7 ≤ s.params.hmemSize → s.hmem.read (a + k / 8) = none →
      exec (.bitGet a k) s = .fault (.hmemUnwritten (.bitGet a k)))) ∧
  RejectsReservedBits .bitGet 0x38 .AS

/-- R111, R113: BIT_SET writes one HMEM byte, in which only bit `k & 7` may change and takes the value `v`; RESULT and
everything else stay. -/
def Obligations.BitSetWritesOneBit : Prop :=
  (∀ (s : State) (a k : Nat) (v : Bool), s.latch = none →
    (∀ b, k ≤ 55 → a + 7 ≤ s.params.hmemSize → s.hmem.read (a + k / 8) = some b →
      ∃ t, exec (.bitSet a k v) s = .next t ∧ t = { s with hmem := t.hmem, cmd := none, cmdDone := true } ∧
        (∃ b', t.hmem.read (a + k / 8) = some b' ∧
          ∀ j, j < 8 → b'.getLsbD j = if j = k % 8 then v else b.getLsbD j) ∧
        (∀ x, x ≠ a + k / 8 → t.hmem.read x = s.hmem.read x)) ∧
    (55 < k → FaultsWith (.bitSet a k v) s .bitIndexRange) ∧
    (k ≤ 55 → s.params.hmemSize < a + 7 → FaultsWith (.bitSet a k v) s .hmemRange) ∧
    (k ≤ 55 → a + 7 ≤ s.params.hmemSize → s.hmem.read (a + k / 8) = none →
      exec (.bitSet a k v) s = .fault (.hmemUnwritten (.bitSet a k v)))) ∧
  RejectsReservedBits .bitSet 0x39 .ASV

/-- R115: BIT_SET then BIT_GET of the same bit gives the value set, and no other bit of the UUID changes. -/
def Obligations.BitSetThenBitGetRoundTrips : Prop :=
  ∀ (s : State) (a i : Nat) (v : Bool) (d : List Byte), s.latch = none → i ≤ 55 → a + 7 ≤ s.params.hmemSize →
    s.hmem.readAll a 7 = some d →
    ∃ t u d', exec (.bitSet a i v) s = .next t ∧ exec (.bitGet a i) t = .next u ∧
      u.result = (if v then 1 else 0) ∧
      t.hmem.readAll a 7 = some d' ∧
      ∀ j, j ≤ 55 → j ≠ i → (d'.getD (j / 8) 0).getLsbD (j % 8) = (d.getD (j / 8) 0).getLsbD (j % 8)

/-! ### Bus exchange, timing, registers (44_bus_timing.md) -/

/-- R181, R182, R190: with no pause pending and room for the padding, an answered EXECUTE sends `max CURSOR MIN_XFER`
bytes at SPI_HZ (the used bytes, then 0xFF, all complemented under INVERT_TX), stores the received bytes as received,
and leaves RESULT and CURSOR at their count and the strong pull-up released. Nothing else changes. -/
def Obligations.ExecuteExchangesTheBuffer : Prop :=
  (∀ (s : State) (rx : List Byte) (n : Nat), s.latch = none → n = max s.cursor.toNat s.minXfer.toNat →
    (s.cursor.toNat < s.minXfer.toNat → s.minXfer.toNat ≤ s.params.bufCap.toNat) →
    s.pausedUntil.toNat ≤ s.now.toNat →
    s.exchange s.padded.busRequest = .received rx →
    rx.length = n ∧
    s.padded.busRequest.tx.length = n ∧ s.padded.busRequest.hz = s.spiHz ∧
    (∀ j, j < n → s.padded.busRequest.tx[j]? =
      some ((if j < s.cursor.toNat then s.bufByte j else 0xFF) ^^^ (if s.invertTx then 0xFF else 0x00))) ∧
    ∃ t, exec .execute s = .next t ∧
      t = { s with
        buf := t.buf
        cursor := t.cursor
        result := t.result
        spuEngaged := false
        cmd := none
        cmdDone := true
        busAnswers := s.busAnswers.tail
        busLog := s.busLog ++ [{ request := s.padded.busRequest, answer := .received rx }] } ∧
      t.cursor.toNat = n ∧ t.result.toNat = n ∧
      (∀ j, j < n → t.buf.read j = rx[j]?) ∧
      (∀ a, n ≤ a → t.buf.read a = s.buf.read a)) ∧
  (∀ s : State, s.latch = none → s.cursor.toNat < s.minXfer.toNat → s.params.bufCap.toNat < s.minXfer.toNat →
    FaultsWith .execute s .bufferOverflow) ∧
  RejectsReservedBits .execute 0x40 .Z

/-- R183, R181: while `PAUSED_UNTIL > NOW` EXECUTE holds: it writes nothing, and that the step of a hold is a next state
equal to the one before it is the model's form of it (assumption 13). The BLOCK accepts no other command: a further word
waits (the model's schedule, assumption 11). The CLOCK goes on (a time already passed leaves NOW: assumption 11), RST
abandons the command with no exchange and no CMD_DONE (R251), and a HOST write to HMEM is the race of R67 under the
model's name (assumption 12). The BUFFER_OVERFLOW check comes before the hold and faults at once. -/
def Obligations.ExecuteHoldsWhilePaused : Prop :=
  (∀ s : State, s.latch = none → (s.cursor.toNat < s.minXfer.toNat → s.minXfer.toNat ≤ s.params.bufCap.toNat) →
    s.now.toNat < s.pausedUntil.toNat →
    exec .execute s = .next s ∧
    ∀ w, s.cmd = some w → decodeWord w = .command .execute →
      (s.moves = [] → step s = .next s) ∧
      (∀ ms, s.moves = .block :: ms → step s = .next { s with moves := ms }) ∧
      (∀ v ms, s.moves = .command v :: ms → step s = .next s) ∧
      (∀ u ms, s.moves = .clock u :: ms →
        ∃ t, step s = .next t ∧ t = { s with now := t.now, moves := ms } ∧ t.now.toNat = max s.now.toNat u.toNat) ∧
      (∀ ms, s.moves = .reset :: ms →
        ∃ t, step s = .next t ∧ t.cmd = none ∧ t.cmdDone = false ∧ t.pausedUntil = 0 ∧ t.busLog = s.busLog ∧
          t.hmem = s.hmem ∧ t.now = s.now ∧ t.moves = ms) ∧
      (∀ (a : BitVec 16) (b : Byte) (ms : List Move), s.moves = .hostWrite a b :: ms →
        step s = .fault .hostRace)) ∧
  (∀ s : State, s.latch = none → s.cursor.toNat < s.minXfer.toNat → s.params.bufCap.toNat < s.minXfer.toNat →
    s.now.toNat < s.pausedUntil.toNat → FaultsWith .execute s .bufferOverflow)

/-- R184: on a transport error EXECUTE takes TRANSPORT_ERROR; the padding and the released pull-up stay, BUF may change
only below the new CURSOR, and RESULT and everything else are as before. -/
def Obligations.ExecuteTransportErrorIsLatched : Prop :=
  ∀ s : State, s.latch = none → (s.cursor.toNat < s.minXfer.toNat → s.minXfer.toNat ≤ s.params.bufCap.toNat) →
    s.pausedUntil.toNat ≤ s.now.toNat → s.exchange s.padded.busRequest = .transportError →
    ∃ t, exec .execute s = .next t ∧
      t = { s with
        buf := t.buf
        cursor := t.cursor
        spuEngaged := false
        latch := some { code := .transportError, op := 0x40 }
        faultLog := s.faultLog ++ [(.transportError, 0x40)]
        cmd := none
        cmdDone := true
        busAnswers := s.busAnswers.tail
        busLog := s.busLog ++ [{ request := s.padded.busRequest, answer := .transportError }] } ∧
      t.cursor.toNat = max s.cursor.toNat s.minXfer.toNat ∧
      (∀ j, j < t.cursor.toNat → (t.buf.read j).isSome = true) ∧
      (∀ a, t.cursor.toNat ≤ a → t.buf.read a = s.buf.read a)

/-- R185, R186: PAUSE extends and never shortens the pause, saturating, copies it to RESULT, and engages the strong
pull-up exactly where there is one; nothing else changes. -/
def Obligations.PauseExtendsThePause : Prop :=
  (∀ (s : State) (t : Nat), s.latch = none →
    ∃ u, exec (.pause t) s = .next u ∧
      u = { s with
        pausedUntil := u.pausedUntil
        result := u.result
        spuEngaged := u.spuEngaged
        cmd := none
        cmdDone := true } ∧
      u.pausedUntil.toNat = max s.pausedUntil.toNat (min (s.now.toNat + t) (2 ^ 64 - 1)) ∧
      u.result = u.pausedUntil ∧
      u.spuEngaged = (if s.params.spuMode = .none then s.spuEngaged else true)) ∧
  RejectsReservedBits .pause 0x41 .T

/-- R187: no command and no agent's move but RST lowers PAUSED_UNTIL, and a PAUSE shorter than the one just made leaves
it. -/
def Obligations.PauseIsMonotone : Prop :=
  (∀ s t : State, (∀ ms, s.moves ≠ .reset :: ms) → step s = .next t → s.pausedUntil.toNat ≤ t.pausedUntil.toNat) ∧
  (∀ (s t : State) (d1 d2 : Nat), s.latch = none → exec (.pause d1) s = .next t → d2 < d1 →
    ∃ u, exec (.pause d2) t = .next u ∧ u.pausedUntil = t.pausedUntil)

/-- R186: over the steps of every agent, only a PAUSE engages the strong pull-up, and only where SPU.MODE is not NONE;
once engaged it stays so until an EXECUTE or RST, whatever NOW does. -/
def Obligations.OnlyPauseEngagesThePullUp : Prop :=
  ∀ s t : State, step s = .next t →
    (s.spuEngaged = false → t.spuEngaged = true →
      s.params.spuMode ≠ .none ∧ ∃ w d, s.cmd = some w ∧ decodeWord w = .command (.pause d)) ∧
    (s.spuEngaged = true → t.spuEngaged = false →
      (∃ ms, s.moves = .reset :: ms) ∨ ∃ w, s.cmd = some w ∧ decodeWord w = .command .execute)

/-- R189: the pin drive of each mode; the pin of a MISO board is in its SPI function unless the pull-up is engaged. -/
def Obligations.PullUpPinFollowsModeAndEngaged : Prop :=
  ∀ s : State,
    (s.params.spuMode = .none → s.spuPin = .absent) ∧
    (s.params.spuMode = .directGpio → s.spuPin = if s.spuEngaged then .output true else .floating) ∧
    (s.params.spuMode = .pMosfet → s.spuPin = .output (!s.spuEngaged)) ∧
    (s.params.spuMode = .miso → s.spuPin = if s.spuEngaged then .output true else .alternate)

/-- R26, R28 to R35, R195: RDREG copies each register into RESULT, zero-extended, and changes nothing else, also while a
fault is latched; a reserved number takes ILLEGAL_REGISTER. -/
def Obligations.RdregCopiesTheRegister : Prop :=
  (∀ s : State,
    exec (.rdreg 0x00) s = .next { s with result := BitVec.ofNat 64 s.statusWord, cmd := none, cmdDone := true } ∧
    exec (.rdreg 0x01) s = .next { s with result := s.cursor.setWidth 64, cmd := none, cmdDone := true } ∧
    exec (.rdreg 0x02) s = .next { s with result := s.params.bufCap.setWidth 64, cmd := none, cmdDone := true } ∧
    exec (.rdreg 0x03) s = .next { s with cmd := none, cmdDone := true } ∧
    exec (.rdreg 0x04) s = .next { s with
      result := (if s.speedSel = .overdrive then 1 else 0) + (if s.params.maxSpeed = .overdrive then 2 else 0)
      cmd := none
      cmdDone := true } ∧
    exec (.rdreg 0x05) s = .next { s with
      result := (match s.params.spuMode with
        | .none => 0
        | .directGpio => 1
        | .pMosfet => 2
        | .miso => 3) + (if s.spuEngaged then 4 else 0)
      cmd := none
      cmdDone := true } ∧
    exec (.rdreg 0x06) s = .next { s with result := if s.invertTx then 1 else 0, cmd := none, cmdDone := true } ∧
    exec (.rdreg 0x07) s = .next { s with result := s.minXfer.setWidth 64, cmd := none, cmdDone := true } ∧
    exec (.rdreg 0x08) s = .next { s with result := s.pausedUntil, cmd := none, cmdDone := true } ∧
    exec (.rdreg 0x09) s = .next { s with result := s.spiHz.setWidth 64, cmd := none, cmdDone := true } ∧
    exec (.rdreg 0x0A) s = .next { s with result := s.crcAcc.setWidth 64, cmd := none, cmdDone := true } ∧
    exec (.rdreg 0x0B) s = .next { s with result := s.now, cmd := none, cmdDone := true } ∧
    (∀ r, 0x0B < r → s.latch = none → FaultsWith (.rdreg r) s .illegalRegister)) ∧
  RejectsReservedBits .rdreg 0x48 .R

/-- R27, R220: RDREG of STATUS gives the fields in their places: FAULT_CODE in 7:0, FAULTED in 8, SPU_ENGAGED in 9,
PAUSE_PENDING computed in 10, FAULT_OP in 23:16, reserved bits 0; nothing but RESULT changes. -/
def Obligations.StatusShowsItsFields : Prop :=
  ∀ s : State, ∃ t, exec (.rdreg 0x00) s = .next t ∧
    t = { s with result := t.result, cmd := none, cmdDone := true } ∧
    (s.latch = none → field t.result 7 0 = 0 ∧ t.result.getLsbD 8 = false ∧ field t.result 23 16 = 0) ∧
    (∀ l, s.latch = some l → t.result.getLsbD 8 = true ∧ field t.result 23 16 = l.op.toNat ∧
      field t.result 7 0 = (match l.code with
        | .illegalCommand => 0x01
        | .bufferOverflow => 0x02
        | .bufferRange => 0x03
        | .hmemRange => 0x04
        | .bitIndexRange => 0x05
        | .crcMismatch => 0x06
        | .transportError => 0x07
        | .illegalRegister => 0x08
        | .illegalValue => 0x09)) ∧
    t.result.getLsbD 9 = s.spuEngaged ∧
    t.result.getLsbD 10 = decide (s.now.toNat < s.pausedUntil.toNat) ∧
    field t.result 15 11 = 0 ∧ field t.result 63 24 = 0

/-- R28, R30, R31, R34, R196: what a legal WRREG writes, and that it writes nothing else, RESULT included. -/
def Obligations.WrregWritesTheNamedRegister : Prop :=
  RejectsReservedBits .wrreg 0x49 .RV ∧ ∀ (s : State) (v : BitVec 48), s.latch = none →
    (v.toNat < 4 → v.getLsbD 0 = false →
      exec (.wrreg 0x04 v) s = .next { s with
        speedSel := .regular
        spiClkSet := 100000
        spiHz := s.params.effectiveHzRegular
        cmd := none
        cmdDone := true }) ∧
    (v.toNat < 4 → v.getLsbD 0 = true → s.params.maxSpeed = .overdrive →
      exec (.wrreg 0x04 v) s = .next { s with
        speedSel := .overdrive
        spiClkSet := 1000000
        spiHz := s.params.effectiveHzOverdrive
        cmd := none
        cmdDone := true }) ∧
    (v.toNat < 2 →
      exec (.wrreg 0x06 v) s = .next { s with invertTx := v.getLsbD 0, cmd := none, cmdDone := true }) ∧
    (v.toNat < 65536 →
      exec (.wrreg 0x07 v) s = .next { s with minXfer := BitVec.ofNat 16 v.toNat, cmd := none, cmdDone := true }) ∧
    (v.toNat < 256 →
      exec (.wrreg 0x0A v) s = .next { s with crcAcc := BitVec.ofNat 8 v.toNat, cmd := none, cmdDone := true })

/-- R196: when WRREG faults: a read-only or reserved register is ILLEGAL_REGISTER whatever the value, a bit outside the
field is ILLEGAL_VALUE, and so is overdrive on a bus that has none. -/
def Obligations.WrregFaultsOnBadRegisterOrValue : Prop :=
  ∀ (s : State) (v : BitVec 48), s.latch = none →
    (∀ r, r ≠ 0x04 → r ≠ 0x06 → r ≠ 0x07 → r ≠ 0x0A → FaultsWith (.wrreg r v) s .illegalRegister) ∧
    (4 ≤ v.toNat → FaultsWith (.wrreg 0x04 v) s .illegalValue) ∧
    (v.getLsbD 0 = true → s.params.maxSpeed = .regular → FaultsWith (.wrreg 0x04 v) s .illegalValue) ∧
    (2 ≤ v.toNat → FaultsWith (.wrreg 0x06 v) s .illegalValue) ∧
    (65536 ≤ v.toNat → FaultsWith (.wrreg 0x07 v) s .illegalValue) ∧
    (256 ≤ v.toNat → FaultsWith (.wrreg 0x0A v) s .illegalValue)

/-- R193: BUS_RESET, issued by the HOST on an idle block, answers "any device present" from the level sampled in the
presence window: byte 8 of what the BUS answers. -/
def Obligations.BusResetReportsPresence : Prop :=
  ∀ (s : State) (rx : List Byte), s.latch = none → s.cmd = none → s.moves = [] →
    11 ≤ s.params.bufCap.toNat → s.minXfer.toNat ≤ s.params.bufCap.toNat → s.pausedUntil.toNat ≤ s.now.toNat →
    s.busAnswers.head? = some (.received rx) → 9 ≤ rx.length →
    ∃ t, busReset s = .ok (!sample (rx.getD 8 0)) t

/-- R255, R24: a second EXECUTE with no CLEAR between sends the first one's answers, complemented under INVERT_TX. -/
def Obligations.SecondExecuteRetransmitsTheAnswer : Prop :=
  ∀ (s : State) (rx : List Byte), s.latch = none →
    (s.cursor.toNat < s.minXfer.toNat → s.minXfer.toNat ≤ s.params.bufCap.toNat) →
    s.pausedUntil.toNat ≤ s.now.toNat → s.exchange s.padded.busRequest = .received rx →
    ∃ t, exec .execute s = .next t ∧ t.padded = t ∧
      t.busRequest.tx = rx.map fun b => b ^^^ (if s.invertTx then 0xFF else 0x00)

/-- R194, R134: the transaction DEV_READ builds fills `11 + (10 + n) * 8` bytes, and its read region is the `8n` probes
at offset 91. -/
def Obligations.DevReadReadsFromOffset91 : Prop :=
  ∀ (s : State) (u : Nat) (c : Byte) (a n : Nat) (id : List Byte), s.latch = none → s.cmd = none → s.moves = [] →
    u < 65536 → u + 7 ≤ s.params.hmemSize → s.hmem.readAll u 7 = some id → 11 + (10 + n) * 8 ≤ s.params.bufCap.toNat →
    Pseudo.expand (.devRead u c a n) = [.clear, .addReset, .addMatchRom u, .addCommand c, .addRead n] ++
      [.execute, .decode 91 a n] ∧
    ∃ t, issueAll ((Pseudo.expand (.devRead u c a n)).take 5) s = .ok () t ∧
      t = { s with buf := t.buf, cursor := t.cursor, result := t.result, cmdDone := true } ∧
      t.cursor.toNat = 11 + (10 + n) * 8 ∧ t.result.toNat = 91 ∧
      ∀ j, j < 8 * n → t.buf.read (91 + j) = some 0x7F

/-! ### Whole-machine rules -/

/-- R62, R113, R152, R250: no step changes a byte of HMEM but a HOST write to that byte, a DECODE whose output covers it, and a
BIT_SET whose bit lies in it. -/
def Obligations.OnlyDecodeBitSetAndHostWriteHmem : Prop :=
  ∀ (s t : State) (a : Nat), step s = .next t → t.hmem.read a ≠ s.hmem.read a →
    (∃ (x : BitVec 16) (b : Byte) (ms : List Move), s.moves = .hostWrite x b :: ms ∧ x.toNat = a) ∨
    (∃ w o a0 n, s.cmd = some w ∧ decodeWord w = .command (.decode o a0 n) ∧ a0 ≤ a ∧ a < a0 + n) ∨
    (∃ w a0 k v, s.cmd = some w ∧ decodeWord w = .command (.bitSet a0 k v) ∧ a = a0 + k / 8)

/-- R35, R262: NOW never goes back, and changes only when the CLOCK moves it (a CLOCK move of the model's schedule:
assumption 11). -/
def Obligations.OnlyTheClockMovesNow : Prop :=
  ∀ s t : State, step s = .next t →
    s.now.toNat ≤ t.now.toNat ∧ (t.now ≠ s.now → ∃ u ms, s.moves = .clock u :: ms ∧ t.now = u)

/-- R250, R251, R226: RST, in any state and in the middle of a hold, gives every piece of block state its reset value,
drops the accepted command with no CMD_DONE and no exchange, and leaves HMEM, NOW and fault_log. (CMD_DONE's and BUF's
reset values are the model's: assumptions 6 and 10.) -/
def Obligations.RstRestoresTheResetValues : Prop :=
  ∀ (s : State) (ms : List Move), s.moves = .reset :: ms →
    step s = .next {
      params := s.params
      buf := []
      cursor := 0
      result := 0
      latch := none
      speedSel := .regular
      spiClkSet := 100000
      spiHz := s.params.effectiveHzRegular
      spuEngaged := false
      invertTx := s.params.invertTxReset
      minXfer := s.params.minXferReset
      pausedUntil := 0
      crcAcc := 0
      now := s.now
      hmem := s.hmem
      cmd := none
      cmdDone := false
      moves := ms
      busAnswers := s.busAnswers
      busLog := s.busLog
      faultLog := s.faultLog }

/-- R39: the values the spec gives for reset, at the default parameters of R9. -/
def Obligations.ResetStateHasTheSpecValues : Prop :=
  State.reset.cursor = 0 ∧ State.reset.result = 0 ∧ State.reset.statusWord = 0 ∧
  State.reset.speedSel = .regular ∧ State.reset.spiClkSet = 100000 ∧ State.reset.spiHz = 100000 ∧
  State.reset.spuEngaged = false ∧ State.reset.invertTx = false ∧ State.reset.minXfer = 0 ∧
  State.reset.pausedUntil = 0 ∧ State.reset.crcAcc = 0 ∧ State.reset.hmem = [] ∧
  State.reset.params.bufCap = 192 ∧ State.reset.params.hmemSize = 256

/-- The invariant holds after power-on, whatever the legal parameters. (Its clause on CMD_DONE is the model's:
assumption 10.) -/
def Obligations.InvariantHoldsAtPowerOn : Prop :=
  Inv State.reset ∧ ∀ p : Params, p.legal = true → Inv (State.powerOn p)

/-- R23, R25, R28, R33, R189, R222: every step of every agent keeps the invariant: CURSOR stays within BUF_CAP, every
used byte has been written, the memories keep their canonical form and their bounds, SPI_HZ follows SEL, ENGAGED needs
a pin, CMD_DONE is low while a command is accepted (the model's level: assumption 10), and the latched fault is the
last of fault_log. -/
def Obligations.EveryStepKeepsTheInvariant : Prop :=
  ∀ s t : State, Inv s → step s = .next t → Inv t

/-- R25: bytes of BUF at or above CURSOR are never read: two states that differ only there run every command alike, and
differ only there afterwards. -/
def Obligations.UnusedBufferBytesAreNeverObserved : Prop :=
  ∀ (i : Instr) (s : State) (m : Memory), (∀ j, j < s.cursor.toNat → m.read j = s.buf.read j) →
    (∃ t t', exec i s = .next t ∧ exec i { s with buf := m } = .next t' ∧ t' = { t with buf := t'.buf } ∧
      ∀ j, j < t.cursor.toNat → t'.buf.read j = t.buf.read j) ∨
    (∃ f, exec i s = .fault f ∧ exec i { s with buf := m } = .fault f)

/-- R205: SEARCH terminates: from depth `d` a recursion bound of `56 - d` is never reached, whatever the bus answers. The
bound and the form of the host procedure are the model's choice (assumption 16). -/
def Obligations.SearchNeverExhaustsItsDepth : Prop :=
  ∀ (w fuel : Nat) (u : Uuid) (d : Nat) (s : State), d ≤ 55 → 56 - d ≤ fuel →
    search w fuel u d s ≠ .exhausted
end

