-- ==== Sys2Proof/Laws/Crc.lean ====
section
/-! SUPPORT. The CRC function one byte at a time (40_crc8.md rule R100). -/

namespace Sys2Proof.Machine

@[simp] theorem crc8_nil (a : Byte) : crc8 a [] = a := rfl

@[simp] theorem crc8_cons (a b : Byte) (bs : List Byte) : crc8 a (b :: bs) = crc8 (crcOfByte a b) bs := rfl

theorem crc8_append (a : Byte) (xs ys : List Byte) : crc8 a (xs ++ ys) = crc8 (crc8 a xs) ys :=
  List.foldl_append

end Sys2Proof.Machine
end

