-- ==== Sys2Proof/Laws/Encoding.lean ====
section
/-! SUPPORT. Lookup in the opcode map (30_encoding.md rule R84) and the word an encoding is. -/

namespace Sys2Proof

@[simp] theorem Opcode.ofByte_code (o : Opcode) : Opcode.ofByte o.code = some o := by cases o <;> rfl

/-- The lookup answers a row only for that row's own OP. -/
theorem Opcode.code_of_ofByte {n : Nat} {o : Opcode} (h : Opcode.ofByte n = some o) : o.code = n := by
  have := List.find?_some h
  simpa using this

/-- No two rows of the opcode map share an OP. -/
theorem Opcode.code_inj {o p : Opcode} (h : o.code = p.code) : o = p := by
  have := congrArg Opcode.ofByte h
  simpa using this

theorem Opcode.code_lt (o : Opcode) : o.code < 256 := by cases o <;> decide

/-- Operand bits start at bit 8 and end below bit 64 (rule R81). -/
theorem Instr.operandBits_spec (i : Instr) : i.operandBits % 256 = 0 ∧ i.operandBits + 256 ≤ 2 ^ 64 := by
  cases i <;> simp only [Instr.operandBits, place] <;> first | decide | omega

theorem encode_toNat (i : Instr) : (encode i).toNat = i.opcode.code + i.operandBits := by
  have h1 := i.opcode.code_lt
  have h2 := i.operandBits_spec.2
  rw [encode, BitVec.toNat_ofNat, Nat.mod_eq_of_lt (by omega)]

end Sys2Proof
end

