-- ==== Sys2Proof/Laws/Memory.lean ====
section
/-! SUPPORT. The laws of byte memories: a read after a write, and that every memory operation keeps the canonical form
(20_memory.md rules R61 and R62). -/

namespace Sys2Proof.Machine

@[simp] theorem Memory.read_nil (a : Nat) : Memory.read [] a = none := rfl

theorem Memory.read_cons (c : Host.Cell) (m : Memory) (a : Nat) :
    Memory.read (c :: m) a = if a = c.1 then some c.2 else Memory.read m a := rfl

/-- Everything a read after a write can give. -/
theorem Memory.read_write (m : Memory) (a : Nat) (b : Byte) (x : Nat) :
    (m.write a b).read x = if x = a then some b else m.read x := by
  induction m with
  | nil => simp [Memory.write, Memory.read_cons]
  | cons c m ih =>
    simp only [Memory.write]
    split
    · simp only [Memory.read_cons]
    · split
      · next h => subst h; simp only [Memory.read_cons]; split <;> rfl
      · next h1 h2 =>
        simp only [Memory.read_cons, ih]
        split
        · next h3 =>
          subst h3
          split
          · next h4 => exact absurd h4.symm h2
          · rfl
        · rfl

@[simp] theorem Memory.read_write_same (m : Memory) (a : Nat) (b : Byte) : (m.write a b).read a = some b := by
  simp [Memory.read_write]

theorem Memory.read_write_other (m : Memory) (b : Byte) {a x : Nat} (h : x ≠ a) :
    (m.write a b).read x = m.read x := by
  simp [Memory.read_write, h]

theorem Memory.all_write (p : Host.Cell → Bool) (m : Memory) (a : Nat) (b : Byte)
    (hm : m.all p = true) (hp : p (a, b) = true) : (m.write a b).all p = true := by
  induction m with
  | nil => simp [Memory.write, hp]
  | cons c m ih =>
    simp only [List.all_cons, Bool.and_eq_true] at hm
    simp only [Memory.write]
    split
    · simp [hp, hm]
    · split
      · simp [hp, hm]
      · simp [hm, ih hm.2]

/-- A write keeps the canonical form. -/
theorem Memory.write_wf (m : Memory) (a : Nat) (b : Byte) (h : m.wf = true) : (m.write a b).wf = true := by
  induction m with
  | nil => simp [Memory.write, Memory.wf]
  | cons c m ih =>
    simp only [Memory.wf, Bool.and_eq_true] at h
    simp only [Memory.write]
    split
    · next hlt =>
      simp only [Memory.wf, List.all_cons, Bool.and_eq_true, decide_eq_true_eq]
      refine ⟨⟨hlt, ?_⟩, h⟩
      simp only [List.all_eq_true, decide_eq_true_eq] at h ⊢
      intro d hd
      exact Nat.lt_trans hlt (h.1 d hd)
    · split
      · next _ heq => subst heq; simp only [Memory.wf, Bool.and_eq_true]; exact h
      · next h1 h2 =>
        simp only [Memory.wf, Bool.and_eq_true]
        exact ⟨Memory.all_write _ m a b h.1 (by simp only [decide_eq_true_eq]; omega), ih h.2⟩

theorem Memory.write_below (m : Memory) (a n : Nat) (b : Byte) (h : m.below n = true) (ha : a < n) :
    (m.write a b).below n = true :=
  Memory.all_write _ m a b h (by simpa using ha)

@[simp] theorem Memory.writeAll_nil (m : Memory) (a : Nat) : m.writeAll a [] = m := rfl

theorem Memory.writeAll_cons (m : Memory) (a : Nat) (b : Byte) (bs : List Byte) :
    m.writeAll a (b :: bs) = (m.write a b).writeAll (a + 1) bs := rfl

/-- Everything a read after a write of several bytes can give. -/
theorem Memory.read_writeAll (m : Memory) (a : Nat) (bs : List Byte) (x : Nat) :
    (m.writeAll a bs).read x = if a ≤ x ∧ x < a + bs.length then bs[x - a]? else m.read x := by
  induction bs generalizing m a with
  | nil => simp
  | cons b bs ih =>
    rw [Memory.writeAll_cons, ih, Memory.read_write]
    simp only [List.length_cons]
    by_cases h1 : a + 1 ≤ x ∧ x < a + 1 + bs.length
    · rw [if_pos h1, if_pos (by omega), show x - a = (x - (a + 1)) + 1 by omega, List.getElem?_cons_succ]
    · rw [if_neg h1]
      by_cases h2 : x = a
      · subst h2; simp
      · rw [if_neg h2, if_neg (by omega)]

theorem Memory.read_writeAll_inside (m : Memory) (a : Nat) (bs : List Byte) {j : Nat} (h : j < bs.length) :
    (m.writeAll a bs).read (a + j) = bs[j]? := by
  rw [Memory.read_writeAll, if_pos (by omega), Nat.add_sub_cancel_left]

theorem Memory.read_writeAll_outside (m : Memory) (a : Nat) (bs : List Byte) {x : Nat}
    (h : x < a ∨ a + bs.length ≤ x) : (m.writeAll a bs).read x = m.read x := by
  rw [Memory.read_writeAll, if_neg (by omega)]

theorem Memory.writeAll_wf (m : Memory) (a : Nat) (bs : List Byte) (h : m.wf = true) :
    (m.writeAll a bs).wf = true := by
  induction bs generalizing m a with
  | nil => exact h
  | cons b bs ih => exact ih _ _ (Memory.write_wf m a b h)

theorem Memory.writeAll_below (m : Memory) (a n : Nat) (bs : List Byte) (h : m.below n = true)
    (ha : a + bs.length ≤ n) : (m.writeAll a bs).below n = true := by
  induction bs generalizing m a with
  | nil => exact h
  | cons b bs ih =>
    simp only [List.length_cons] at ha
    exact ih _ _ (Memory.write_below m a n b h (by omega)) (by omega)

/-- `MemRead` answers `d` exactly when `d` has `n` bytes and each is the byte written there. -/
theorem Memory.readAll_eq_some_iff (m : Memory) (a n : Nat) (d : List Byte) :
    m.readAll a n = some d ↔ d.length = n ∧ ∀ j, j < n → m.read (a + j) = d[j]? := by
  induction n generalizing a d with
  | zero => cases d <;> simp [Memory.readAll]
  | succ n ih =>
    simp only [Memory.readAll]
    constructor
    · intro h
      split at h
      · exact absurd h (by simp)
      · next b hb =>
        split at h
        · exact absurd h (by simp)
        · next bs hbs =>
          obtain rfl : b :: bs = d := by simpa using h
          obtain ⟨hl, hr⟩ := (ih (a + 1) bs).mp hbs
          refine ⟨by simp [hl], fun j hj => ?_⟩
          cases j with
          | zero => simpa using hb
          | succ j => rw [List.getElem?_cons_succ, ← hr j (by omega)]; congr 1; omega
    · rintro ⟨hl, hr⟩
      cases d with
      | nil => simp at hl
      | cons b bs =>
        have h0 : m.read a = some b := by simpa using hr 0 (by omega)
        have h1 : m.readAll (a + 1) n = some bs := by
          refine (ih (a + 1) bs).mpr ⟨by simpa using hl, fun j hj => ?_⟩
          have := hr (j + 1) (by omega)
          rw [List.getElem?_cons_succ] at this
          rw [← this]; congr 1; omega
        simp [h0, h1]

theorem Memory.readAll_length {m : Memory} {a n : Nat} {d : List Byte} (h : m.readAll a n = some d) :
    d.length = n := ((Memory.readAll_eq_some_iff m a n d).mp h).1

/-- `MemRead` answers none exactly when one of the bytes has not been written (rule R62). -/
theorem Memory.readAll_eq_none_iff (m : Memory) (a n : Nat) :
    m.readAll a n = none ↔ ∃ j, j < n ∧ m.read (a + j) = none := by
  induction n generalizing a with
  | zero => simp [Memory.readAll]
  | succ n ih =>
    simp only [Memory.readAll]
    cases h0 : m.read a with
    | none => simp only [true_iff]; exact ⟨0, by omega, by simpa using h0⟩
    | some b =>
      have key : (∃ j, j < n + 1 ∧ m.read (a + j) = none) ↔ ∃ j, j < n ∧ m.read (a + 1 + j) = none := by
        constructor
        · rintro ⟨j, hj, hn⟩
          cases j with
          | zero => simp [h0] at hn
          | succ j => exact ⟨j, by omega, by rw [← hn]; congr 1; omega⟩
        · rintro ⟨j, hj, hn⟩
          exact ⟨j + 1, by omega, by rw [← hn]; congr 1; omega⟩
      rw [key, ← ih (a + 1)]
      cases m.readAll (a + 1) n <;> simp

end Sys2Proof.Machine
end

