-- ==== Sys2Proof/Laws/State.lean ====
section
/-! SUPPORT. What each named update of the state does to each field, true by rfl: later proofs read a field of an
updated state by these and unfold no record update. -/

namespace Sys2Proof.Machine

@[simp] theorem State.complete_params (s : State) : s.complete.params = s.params := rfl
@[simp] theorem State.complete_buf (s : State) : s.complete.buf = s.buf := rfl
@[simp] theorem State.complete_cursor (s : State) : s.complete.cursor = s.cursor := rfl
@[simp] theorem State.complete_result (s : State) : s.complete.result = s.result := rfl
@[simp] theorem State.complete_latch (s : State) : s.complete.latch = s.latch := rfl
@[simp] theorem State.complete_speedSel (s : State) : s.complete.speedSel = s.speedSel := rfl
@[simp] theorem State.complete_spiClkSet (s : State) : s.complete.spiClkSet = s.spiClkSet := rfl
@[simp] theorem State.complete_spiHz (s : State) : s.complete.spiHz = s.spiHz := rfl
@[simp] theorem State.complete_spuEngaged (s : State) : s.complete.spuEngaged = s.spuEngaged := rfl
@[simp] theorem State.complete_invertTx (s : State) : s.complete.invertTx = s.invertTx := rfl
@[simp] theorem State.complete_minXfer (s : State) : s.complete.minXfer = s.minXfer := rfl
@[simp] theorem State.complete_pausedUntil (s : State) : s.complete.pausedUntil = s.pausedUntil := rfl
@[simp] theorem State.complete_crcAcc (s : State) : s.complete.crcAcc = s.crcAcc := rfl
@[simp] theorem State.complete_now (s : State) : s.complete.now = s.now := rfl
@[simp] theorem State.complete_hmem (s : State) : s.complete.hmem = s.hmem := rfl
@[simp] theorem State.complete_cmd (s : State) : s.complete.cmd = none := rfl
@[simp] theorem State.complete_cmdDone (s : State) : s.complete.cmdDone = true := rfl
@[simp] theorem State.complete_moves (s : State) : s.complete.moves = s.moves := rfl
@[simp] theorem State.complete_busAnswers (s : State) : s.complete.busAnswers = s.busAnswers := rfl
@[simp] theorem State.complete_busLog (s : State) : s.complete.busLog = s.busLog := rfl
@[simp] theorem State.complete_faultLog (s : State) : s.complete.faultLog = s.faultLog := rfl

@[simp] theorem State.setResult_params (s : State) (v : Nat) : (s.setResult v).params = s.params := rfl
@[simp] theorem State.setResult_buf (s : State) (v : Nat) : (s.setResult v).buf = s.buf := rfl
@[simp] theorem State.setResult_cursor (s : State) (v : Nat) : (s.setResult v).cursor = s.cursor := rfl
@[simp] theorem State.setResult_result (s : State) (v : Nat) : (s.setResult v).result = BitVec.ofNat 64 v := rfl
@[simp] theorem State.setResult_latch (s : State) (v : Nat) : (s.setResult v).latch = s.latch := rfl
@[simp] theorem State.setResult_speedSel (s : State) (v : Nat) : (s.setResult v).speedSel = s.speedSel := rfl
@[simp] theorem State.setResult_spiClkSet (s : State) (v : Nat) : (s.setResult v).spiClkSet = s.spiClkSet := rfl
@[simp] theorem State.setResult_spiHz (s : State) (v : Nat) : (s.setResult v).spiHz = s.spiHz := rfl
@[simp] theorem State.setResult_spuEngaged (s : State) (v : Nat) : (s.setResult v).spuEngaged = s.spuEngaged := rfl
@[simp] theorem State.setResult_invertTx (s : State) (v : Nat) : (s.setResult v).invertTx = s.invertTx := rfl
@[simp] theorem State.setResult_minXfer (s : State) (v : Nat) : (s.setResult v).minXfer = s.minXfer := rfl
@[simp] theorem State.setResult_pausedUntil (s : State) (v : Nat) : (s.setResult v).pausedUntil = s.pausedUntil := rfl
@[simp] theorem State.setResult_crcAcc (s : State) (v : Nat) : (s.setResult v).crcAcc = s.crcAcc := rfl
@[simp] theorem State.setResult_now (s : State) (v : Nat) : (s.setResult v).now = s.now := rfl
@[simp] theorem State.setResult_hmem (s : State) (v : Nat) : (s.setResult v).hmem = s.hmem := rfl
@[simp] theorem State.setResult_cmd (s : State) (v : Nat) : (s.setResult v).cmd = s.cmd := rfl
@[simp] theorem State.setResult_cmdDone (s : State) (v : Nat) : (s.setResult v).cmdDone = s.cmdDone := rfl
@[simp] theorem State.setResult_moves (s : State) (v : Nat) : (s.setResult v).moves = s.moves := rfl
@[simp] theorem State.setResult_busAnswers (s : State) (v : Nat) : (s.setResult v).busAnswers = s.busAnswers := rfl
@[simp] theorem State.setResult_busLog (s : State) (v : Nat) : (s.setResult v).busLog = s.busLog := rfl
@[simp] theorem State.setResult_faultLog (s : State) (v : Nat) : (s.setResult v).faultLog = s.faultLog := rfl

@[simp] theorem State.enterFault_params (s : State) (c : FaultCode) (w : Word) : (s.enterFault c w).params = s.params := rfl
@[simp] theorem State.enterFault_buf (s : State) (c : FaultCode) (w : Word) : (s.enterFault c w).buf = s.buf := rfl
@[simp] theorem State.enterFault_cursor (s : State) (c : FaultCode) (w : Word) : (s.enterFault c w).cursor = s.cursor := rfl
@[simp] theorem State.enterFault_result (s : State) (c : FaultCode) (w : Word) : (s.enterFault c w).result = s.result := rfl
@[simp] theorem State.enterFault_latch (s : State) (c : FaultCode) (w : Word) : (s.enterFault c w).latch = some { code := c, op := BitVec.ofNat 8 (field w 7 0) } := rfl
@[simp] theorem State.enterFault_speedSel (s : State) (c : FaultCode) (w : Word) : (s.enterFault c w).speedSel = s.speedSel := rfl
@[simp] theorem State.enterFault_spiClkSet (s : State) (c : FaultCode) (w : Word) : (s.enterFault c w).spiClkSet = s.spiClkSet := rfl
@[simp] theorem State.enterFault_spiHz (s : State) (c : FaultCode) (w : Word) : (s.enterFault c w).spiHz = s.spiHz := rfl
@[simp] theorem State.enterFault_spuEngaged (s : State) (c : FaultCode) (w : Word) : (s.enterFault c w).spuEngaged = s.spuEngaged := rfl
@[simp] theorem State.enterFault_invertTx (s : State) (c : FaultCode) (w : Word) : (s.enterFault c w).invertTx = s.invertTx := rfl
@[simp] theorem State.enterFault_minXfer (s : State) (c : FaultCode) (w : Word) : (s.enterFault c w).minXfer = s.minXfer := rfl
@[simp] theorem State.enterFault_pausedUntil (s : State) (c : FaultCode) (w : Word) : (s.enterFault c w).pausedUntil = s.pausedUntil := rfl
@[simp] theorem State.enterFault_crcAcc (s : State) (c : FaultCode) (w : Word) : (s.enterFault c w).crcAcc = s.crcAcc := rfl
@[simp] theorem State.enterFault_now (s : State) (c : FaultCode) (w : Word) : (s.enterFault c w).now = s.now := rfl
@[simp] theorem State.enterFault_hmem (s : State) (c : FaultCode) (w : Word) : (s.enterFault c w).hmem = s.hmem := rfl
@[simp] theorem State.enterFault_cmd (s : State) (c : FaultCode) (w : Word) : (s.enterFault c w).cmd = none := rfl
@[simp] theorem State.enterFault_cmdDone (s : State) (c : FaultCode) (w : Word) : (s.enterFault c w).cmdDone = true := rfl
@[simp] theorem State.enterFault_moves (s : State) (c : FaultCode) (w : Word) : (s.enterFault c w).moves = s.moves := rfl
@[simp] theorem State.enterFault_busAnswers (s : State) (c : FaultCode) (w : Word) : (s.enterFault c w).busAnswers = s.busAnswers := rfl
@[simp] theorem State.enterFault_busLog (s : State) (c : FaultCode) (w : Word) : (s.enterFault c w).busLog = s.busLog := rfl
@[simp] theorem State.enterFault_faultLog (s : State) (c : FaultCode) (w : Word) : (s.enterFault c w).faultLog = s.faultLog ++ [(c, w)] := rfl

@[simp] theorem State.acknowledge_params (s : State) : s.acknowledge.params = s.params := rfl
@[simp] theorem State.acknowledge_buf (s : State) : s.acknowledge.buf = s.buf := rfl
@[simp] theorem State.acknowledge_cursor (s : State) : s.acknowledge.cursor = s.cursor := rfl
@[simp] theorem State.acknowledge_result (s : State) : s.acknowledge.result = s.result := rfl
@[simp] theorem State.acknowledge_latch (s : State) : s.acknowledge.latch = none := rfl
@[simp] theorem State.acknowledge_speedSel (s : State) : s.acknowledge.speedSel = s.speedSel := rfl
@[simp] theorem State.acknowledge_spiClkSet (s : State) : s.acknowledge.spiClkSet = s.spiClkSet := rfl
@[simp] theorem State.acknowledge_spiHz (s : State) : s.acknowledge.spiHz = s.spiHz := rfl
@[simp] theorem State.acknowledge_spuEngaged (s : State) : s.acknowledge.spuEngaged = s.spuEngaged := rfl
@[simp] theorem State.acknowledge_invertTx (s : State) : s.acknowledge.invertTx = s.invertTx := rfl
@[simp] theorem State.acknowledge_minXfer (s : State) : s.acknowledge.minXfer = s.minXfer := rfl
@[simp] theorem State.acknowledge_pausedUntil (s : State) : s.acknowledge.pausedUntil = s.pausedUntil := rfl
@[simp] theorem State.acknowledge_crcAcc (s : State) : s.acknowledge.crcAcc = s.crcAcc := rfl
@[simp] theorem State.acknowledge_now (s : State) : s.acknowledge.now = s.now := rfl
@[simp] theorem State.acknowledge_hmem (s : State) : s.acknowledge.hmem = s.hmem := rfl
@[simp] theorem State.acknowledge_cmd (s : State) : s.acknowledge.cmd = s.cmd := rfl
@[simp] theorem State.acknowledge_cmdDone (s : State) : s.acknowledge.cmdDone = s.cmdDone := rfl
@[simp] theorem State.acknowledge_moves (s : State) : s.acknowledge.moves = s.moves := rfl
@[simp] theorem State.acknowledge_busAnswers (s : State) : s.acknowledge.busAnswers = s.busAnswers := rfl
@[simp] theorem State.acknowledge_busLog (s : State) : s.acknowledge.busLog = s.busLog := rfl
@[simp] theorem State.acknowledge_faultLog (s : State) : s.acknowledge.faultLog = s.faultLog := rfl

@[simp] theorem State.appendBytes_params (s : State) (k : Nat) (bs : List Byte) (r : Nat) : (s.appendBytes k bs r).params = s.params := rfl
@[simp] theorem State.appendBytes_buf (s : State) (k : Nat) (bs : List Byte) (r : Nat) : (s.appendBytes k bs r).buf = s.buf.writeAll s.cursor.toNat bs := rfl
@[simp] theorem State.appendBytes_cursor (s : State) (k : Nat) (bs : List Byte) (r : Nat) : (s.appendBytes k bs r).cursor = BitVec.ofNat 16 (s.cursor.toNat + k) := rfl
@[simp] theorem State.appendBytes_result (s : State) (k : Nat) (bs : List Byte) (r : Nat) : (s.appendBytes k bs r).result = BitVec.ofNat 64 r := rfl
@[simp] theorem State.appendBytes_latch (s : State) (k : Nat) (bs : List Byte) (r : Nat) : (s.appendBytes k bs r).latch = s.latch := rfl
@[simp] theorem State.appendBytes_speedSel (s : State) (k : Nat) (bs : List Byte) (r : Nat) : (s.appendBytes k bs r).speedSel = s.speedSel := rfl
@[simp] theorem State.appendBytes_spiClkSet (s : State) (k : Nat) (bs : List Byte) (r : Nat) : (s.appendBytes k bs r).spiClkSet = s.spiClkSet := rfl
@[simp] theorem State.appendBytes_spiHz (s : State) (k : Nat) (bs : List Byte) (r : Nat) : (s.appendBytes k bs r).spiHz = s.spiHz := rfl
@[simp] theorem State.appendBytes_spuEngaged (s : State) (k : Nat) (bs : List Byte) (r : Nat) : (s.appendBytes k bs r).spuEngaged = s.spuEngaged := rfl
@[simp] theorem State.appendBytes_invertTx (s : State) (k : Nat) (bs : List Byte) (r : Nat) : (s.appendBytes k bs r).invertTx = s.invertTx := rfl
@[simp] theorem State.appendBytes_minXfer (s : State) (k : Nat) (bs : List Byte) (r : Nat) : (s.appendBytes k bs r).minXfer = s.minXfer := rfl
@[simp] theorem State.appendBytes_pausedUntil (s : State) (k : Nat) (bs : List Byte) (r : Nat) : (s.appendBytes k bs r).pausedUntil = s.pausedUntil := rfl
@[simp] theorem State.appendBytes_crcAcc (s : State) (k : Nat) (bs : List Byte) (r : Nat) : (s.appendBytes k bs r).crcAcc = s.crcAcc := rfl
@[simp] theorem State.appendBytes_now (s : State) (k : Nat) (bs : List Byte) (r : Nat) : (s.appendBytes k bs r).now = s.now := rfl
@[simp] theorem State.appendBytes_hmem (s : State) (k : Nat) (bs : List Byte) (r : Nat) : (s.appendBytes k bs r).hmem = s.hmem := rfl
@[simp] theorem State.appendBytes_cmd (s : State) (k : Nat) (bs : List Byte) (r : Nat) : (s.appendBytes k bs r).cmd = s.cmd := rfl
@[simp] theorem State.appendBytes_cmdDone (s : State) (k : Nat) (bs : List Byte) (r : Nat) : (s.appendBytes k bs r).cmdDone = s.cmdDone := rfl
@[simp] theorem State.appendBytes_moves (s : State) (k : Nat) (bs : List Byte) (r : Nat) : (s.appendBytes k bs r).moves = s.moves := rfl
@[simp] theorem State.appendBytes_busAnswers (s : State) (k : Nat) (bs : List Byte) (r : Nat) : (s.appendBytes k bs r).busAnswers = s.busAnswers := rfl
@[simp] theorem State.appendBytes_busLog (s : State) (k : Nat) (bs : List Byte) (r : Nat) : (s.appendBytes k bs r).busLog = s.busLog := rfl
@[simp] theorem State.appendBytes_faultLog (s : State) (k : Nat) (bs : List Byte) (r : Nat) : (s.appendBytes k bs r).faultLog = s.faultLog := rfl

@[simp] theorem State.accept_params (s : State) (w : Word) : (s.accept w).params = s.params := rfl
@[simp] theorem State.accept_buf (s : State) (w : Word) : (s.accept w).buf = s.buf := rfl
@[simp] theorem State.accept_cursor (s : State) (w : Word) : (s.accept w).cursor = s.cursor := rfl
@[simp] theorem State.accept_result (s : State) (w : Word) : (s.accept w).result = s.result := rfl
@[simp] theorem State.accept_latch (s : State) (w : Word) : (s.accept w).latch = s.latch := rfl
@[simp] theorem State.accept_speedSel (s : State) (w : Word) : (s.accept w).speedSel = s.speedSel := rfl
@[simp] theorem State.accept_spiClkSet (s : State) (w : Word) : (s.accept w).spiClkSet = s.spiClkSet := rfl
@[simp] theorem State.accept_spiHz (s : State) (w : Word) : (s.accept w).spiHz = s.spiHz := rfl
@[simp] theorem State.accept_spuEngaged (s : State) (w : Word) : (s.accept w).spuEngaged = s.spuEngaged := rfl
@[simp] theorem State.accept_invertTx (s : State) (w : Word) : (s.accept w).invertTx = s.invertTx := rfl
@[simp] theorem State.accept_minXfer (s : State) (w : Word) : (s.accept w).minXfer = s.minXfer := rfl
@[simp] theorem State.accept_pausedUntil (s : State) (w : Word) : (s.accept w).pausedUntil = s.pausedUntil := rfl
@[simp] theorem State.accept_crcAcc (s : State) (w : Word) : (s.accept w).crcAcc = s.crcAcc := rfl
@[simp] theorem State.accept_now (s : State) (w : Word) : (s.accept w).now = s.now := rfl
@[simp] theorem State.accept_hmem (s : State) (w : Word) : (s.accept w).hmem = s.hmem := rfl
@[simp] theorem State.accept_cmd (s : State) (w : Word) : (s.accept w).cmd = some w := rfl
@[simp] theorem State.accept_cmdDone (s : State) (w : Word) : (s.accept w).cmdDone = false := rfl
@[simp] theorem State.accept_moves (s : State) (w : Word) : (s.accept w).moves = s.moves := rfl
@[simp] theorem State.accept_busAnswers (s : State) (w : Word) : (s.accept w).busAnswers = s.busAnswers := rfl
@[simp] theorem State.accept_busLog (s : State) (w : Word) : (s.accept w).busLog = s.busLog := rfl
@[simp] theorem State.accept_faultLog (s : State) (w : Word) : (s.accept w).faultLog = s.faultLog := rfl

@[simp] theorem State.advanceClock_params (s : State) (t : BitVec 64) : (s.advanceClock t).params = s.params := rfl
@[simp] theorem State.advanceClock_buf (s : State) (t : BitVec 64) : (s.advanceClock t).buf = s.buf := rfl
@[simp] theorem State.advanceClock_cursor (s : State) (t : BitVec 64) : (s.advanceClock t).cursor = s.cursor := rfl
@[simp] theorem State.advanceClock_result (s : State) (t : BitVec 64) : (s.advanceClock t).result = s.result := rfl
@[simp] theorem State.advanceClock_latch (s : State) (t : BitVec 64) : (s.advanceClock t).latch = s.latch := rfl
@[simp] theorem State.advanceClock_speedSel (s : State) (t : BitVec 64) : (s.advanceClock t).speedSel = s.speedSel := rfl
@[simp] theorem State.advanceClock_spiClkSet (s : State) (t : BitVec 64) : (s.advanceClock t).spiClkSet = s.spiClkSet := rfl
@[simp] theorem State.advanceClock_spiHz (s : State) (t : BitVec 64) : (s.advanceClock t).spiHz = s.spiHz := rfl
@[simp] theorem State.advanceClock_spuEngaged (s : State) (t : BitVec 64) : (s.advanceClock t).spuEngaged = s.spuEngaged := rfl
@[simp] theorem State.advanceClock_invertTx (s : State) (t : BitVec 64) : (s.advanceClock t).invertTx = s.invertTx := rfl
@[simp] theorem State.advanceClock_minXfer (s : State) (t : BitVec 64) : (s.advanceClock t).minXfer = s.minXfer := rfl
@[simp] theorem State.advanceClock_pausedUntil (s : State) (t : BitVec 64) : (s.advanceClock t).pausedUntil = s.pausedUntil := rfl
@[simp] theorem State.advanceClock_crcAcc (s : State) (t : BitVec 64) : (s.advanceClock t).crcAcc = s.crcAcc := rfl
@[simp] theorem State.advanceClock_now (s : State) (t : BitVec 64) : (s.advanceClock t).now = (if s.now.toNat < t.toNat then t else s.now) := rfl
@[simp] theorem State.advanceClock_hmem (s : State) (t : BitVec 64) : (s.advanceClock t).hmem = s.hmem := rfl
@[simp] theorem State.advanceClock_cmd (s : State) (t : BitVec 64) : (s.advanceClock t).cmd = s.cmd := rfl
@[simp] theorem State.advanceClock_cmdDone (s : State) (t : BitVec 64) : (s.advanceClock t).cmdDone = s.cmdDone := rfl
@[simp] theorem State.advanceClock_moves (s : State) (t : BitVec 64) : (s.advanceClock t).moves = s.moves := rfl
@[simp] theorem State.advanceClock_busAnswers (s : State) (t : BitVec 64) : (s.advanceClock t).busAnswers = s.busAnswers := rfl
@[simp] theorem State.advanceClock_busLog (s : State) (t : BitVec 64) : (s.advanceClock t).busLog = s.busLog := rfl
@[simp] theorem State.advanceClock_faultLog (s : State) (t : BitVec 64) : (s.advanceClock t).faultLog = s.faultLog := rfl

@[simp] theorem State.recordExchange_params (s : State) (r : BusRequest) : (s.recordExchange r).params = s.params := rfl
@[simp] theorem State.recordExchange_buf (s : State) (r : BusRequest) : (s.recordExchange r).buf = s.buf := rfl
@[simp] theorem State.recordExchange_cursor (s : State) (r : BusRequest) : (s.recordExchange r).cursor = s.cursor := rfl
@[simp] theorem State.recordExchange_result (s : State) (r : BusRequest) : (s.recordExchange r).result = s.result := rfl
@[simp] theorem State.recordExchange_latch (s : State) (r : BusRequest) : (s.recordExchange r).latch = s.latch := rfl
@[simp] theorem State.recordExchange_speedSel (s : State) (r : BusRequest) : (s.recordExchange r).speedSel = s.speedSel := rfl
@[simp] theorem State.recordExchange_spiClkSet (s : State) (r : BusRequest) : (s.recordExchange r).spiClkSet = s.spiClkSet := rfl
@[simp] theorem State.recordExchange_spiHz (s : State) (r : BusRequest) : (s.recordExchange r).spiHz = s.spiHz := rfl
@[simp] theorem State.recordExchange_spuEngaged (s : State) (r : BusRequest) : (s.recordExchange r).spuEngaged = s.spuEngaged := rfl
@[simp] theorem State.recordExchange_invertTx (s : State) (r : BusRequest) : (s.recordExchange r).invertTx = s.invertTx := rfl
@[simp] theorem State.recordExchange_minXfer (s : State) (r : BusRequest) : (s.recordExchange r).minXfer = s.minXfer := rfl
@[simp] theorem State.recordExchange_pausedUntil (s : State) (r : BusRequest) : (s.recordExchange r).pausedUntil = s.pausedUntil := rfl
@[simp] theorem State.recordExchange_crcAcc (s : State) (r : BusRequest) : (s.recordExchange r).crcAcc = s.crcAcc := rfl
@[simp] theorem State.recordExchange_now (s : State) (r : BusRequest) : (s.recordExchange r).now = s.now := rfl
@[simp] theorem State.recordExchange_hmem (s : State) (r : BusRequest) : (s.recordExchange r).hmem = s.hmem := rfl
@[simp] theorem State.recordExchange_cmd (s : State) (r : BusRequest) : (s.recordExchange r).cmd = s.cmd := rfl
@[simp] theorem State.recordExchange_cmdDone (s : State) (r : BusRequest) : (s.recordExchange r).cmdDone = s.cmdDone := rfl
@[simp] theorem State.recordExchange_moves (s : State) (r : BusRequest) : (s.recordExchange r).moves = s.moves := rfl
@[simp] theorem State.recordExchange_busAnswers (s : State) (r : BusRequest) : (s.recordExchange r).busAnswers = s.busAnswers.tail := rfl
@[simp] theorem State.recordExchange_busLog (s : State) (r : BusRequest) : (s.recordExchange r).busLog = s.busLog ++ [{ request := r, answer := s.exchange r }] := rfl
@[simp] theorem State.recordExchange_faultLog (s : State) (r : BusRequest) : (s.recordExchange r).faultLog = s.faultLog := rfl

@[simp] theorem State.disengaged_params (s : State) : s.disengaged.params = s.params := rfl
@[simp] theorem State.disengaged_buf (s : State) : s.disengaged.buf = s.buf := rfl
@[simp] theorem State.disengaged_cursor (s : State) : s.disengaged.cursor = s.cursor := rfl
@[simp] theorem State.disengaged_result (s : State) : s.disengaged.result = s.result := rfl
@[simp] theorem State.disengaged_latch (s : State) : s.disengaged.latch = s.latch := rfl
@[simp] theorem State.disengaged_speedSel (s : State) : s.disengaged.speedSel = s.speedSel := rfl
@[simp] theorem State.disengaged_spiClkSet (s : State) : s.disengaged.spiClkSet = s.spiClkSet := rfl
@[simp] theorem State.disengaged_spiHz (s : State) : s.disengaged.spiHz = s.spiHz := rfl
@[simp] theorem State.disengaged_spuEngaged (s : State) : s.disengaged.spuEngaged = false := rfl
@[simp] theorem State.disengaged_invertTx (s : State) : s.disengaged.invertTx = s.invertTx := rfl
@[simp] theorem State.disengaged_minXfer (s : State) : s.disengaged.minXfer = s.minXfer := rfl
@[simp] theorem State.disengaged_pausedUntil (s : State) : s.disengaged.pausedUntil = s.pausedUntil := rfl
@[simp] theorem State.disengaged_crcAcc (s : State) : s.disengaged.crcAcc = s.crcAcc := rfl
@[simp] theorem State.disengaged_now (s : State) : s.disengaged.now = s.now := rfl
@[simp] theorem State.disengaged_hmem (s : State) : s.disengaged.hmem = s.hmem := rfl
@[simp] theorem State.disengaged_cmd (s : State) : s.disengaged.cmd = s.cmd := rfl
@[simp] theorem State.disengaged_cmdDone (s : State) : s.disengaged.cmdDone = s.cmdDone := rfl
@[simp] theorem State.disengaged_moves (s : State) : s.disengaged.moves = s.moves := rfl
@[simp] theorem State.disengaged_busAnswers (s : State) : s.disengaged.busAnswers = s.busAnswers := rfl
@[simp] theorem State.disengaged_busLog (s : State) : s.disengaged.busLog = s.busLog := rfl
@[simp] theorem State.disengaged_faultLog (s : State) : s.disengaged.faultLog = s.faultLog := rfl

@[simp] theorem State.selectSpeed_params (s : State) (c : SpeedClass) : (s.selectSpeed c).params = s.params := rfl
@[simp] theorem State.selectSpeed_buf (s : State) (c : SpeedClass) : (s.selectSpeed c).buf = s.buf := rfl
@[simp] theorem State.selectSpeed_cursor (s : State) (c : SpeedClass) : (s.selectSpeed c).cursor = s.cursor := rfl
@[simp] theorem State.selectSpeed_result (s : State) (c : SpeedClass) : (s.selectSpeed c).result = s.result := rfl
@[simp] theorem State.selectSpeed_latch (s : State) (c : SpeedClass) : (s.selectSpeed c).latch = s.latch := rfl
@[simp] theorem State.selectSpeed_speedSel (s : State) (c : SpeedClass) : (s.selectSpeed c).speedSel = c := rfl
@[simp] theorem State.selectSpeed_spiClkSet (s : State) (c : SpeedClass) : (s.selectSpeed c).spiClkSet = nominalHz c := rfl
@[simp] theorem State.selectSpeed_spiHz (s : State) (c : SpeedClass) : (s.selectSpeed c).spiHz = s.params.effectiveHz c := rfl
@[simp] theorem State.selectSpeed_spuEngaged (s : State) (c : SpeedClass) : (s.selectSpeed c).spuEngaged = s.spuEngaged := rfl
@[simp] theorem State.selectSpeed_invertTx (s : State) (c : SpeedClass) : (s.selectSpeed c).invertTx = s.invertTx := rfl
@[simp] theorem State.selectSpeed_minXfer (s : State) (c : SpeedClass) : (s.selectSpeed c).minXfer = s.minXfer := rfl
@[simp] theorem State.selectSpeed_pausedUntil (s : State) (c : SpeedClass) : (s.selectSpeed c).pausedUntil = s.pausedUntil := rfl
@[simp] theorem State.selectSpeed_crcAcc (s : State) (c : SpeedClass) : (s.selectSpeed c).crcAcc = s.crcAcc := rfl
@[simp] theorem State.selectSpeed_now (s : State) (c : SpeedClass) : (s.selectSpeed c).now = s.now := rfl
@[simp] theorem State.selectSpeed_hmem (s : State) (c : SpeedClass) : (s.selectSpeed c).hmem = s.hmem := rfl
@[simp] theorem State.selectSpeed_cmd (s : State) (c : SpeedClass) : (s.selectSpeed c).cmd = s.cmd := rfl
@[simp] theorem State.selectSpeed_cmdDone (s : State) (c : SpeedClass) : (s.selectSpeed c).cmdDone = s.cmdDone := rfl
@[simp] theorem State.selectSpeed_moves (s : State) (c : SpeedClass) : (s.selectSpeed c).moves = s.moves := rfl
@[simp] theorem State.selectSpeed_busAnswers (s : State) (c : SpeedClass) : (s.selectSpeed c).busAnswers = s.busAnswers := rfl
@[simp] theorem State.selectSpeed_busLog (s : State) (c : SpeedClass) : (s.selectSpeed c).busLog = s.busLog := rfl
@[simp] theorem State.selectSpeed_faultLog (s : State) (c : SpeedClass) : (s.selectSpeed c).faultLog = s.faultLog := rfl

@[simp] theorem State.rst_params (s : State) : s.rst.params = s.params := rfl
@[simp] theorem State.rst_buf (s : State) : s.rst.buf = [] := rfl
@[simp] theorem State.rst_cursor (s : State) : s.rst.cursor = 0 := rfl
@[simp] theorem State.rst_result (s : State) : s.rst.result = 0 := rfl
@[simp] theorem State.rst_latch (s : State) : s.rst.latch = none := rfl
@[simp] theorem State.rst_speedSel (s : State) : s.rst.speedSel = .regular := rfl
@[simp] theorem State.rst_spiClkSet (s : State) : s.rst.spiClkSet = 100000 := rfl
@[simp] theorem State.rst_spiHz (s : State) : s.rst.spiHz = s.params.effectiveHzRegular := rfl
@[simp] theorem State.rst_spuEngaged (s : State) : s.rst.spuEngaged = false := rfl
@[simp] theorem State.rst_invertTx (s : State) : s.rst.invertTx = s.params.invertTxReset := rfl
@[simp] theorem State.rst_minXfer (s : State) : s.rst.minXfer = s.params.minXferReset := rfl
@[simp] theorem State.rst_pausedUntil (s : State) : s.rst.pausedUntil = 0 := rfl
@[simp] theorem State.rst_crcAcc (s : State) : s.rst.crcAcc = 0 := rfl
@[simp] theorem State.rst_now (s : State) : s.rst.now = s.now := rfl
@[simp] theorem State.rst_hmem (s : State) : s.rst.hmem = s.hmem := rfl
@[simp] theorem State.rst_cmd (s : State) : s.rst.cmd = none := rfl
@[simp] theorem State.rst_cmdDone (s : State) : s.rst.cmdDone = false := rfl
@[simp] theorem State.rst_moves (s : State) : s.rst.moves = s.moves := rfl
@[simp] theorem State.rst_busAnswers (s : State) : s.rst.busAnswers = s.busAnswers := rfl
@[simp] theorem State.rst_busLog (s : State) : s.rst.busLog = s.busLog := rfl
@[simp] theorem State.rst_faultLog (s : State) : s.rst.faultLog = s.faultLog := rfl

end Sys2Proof.Machine
end

