-- ==== Sys2Proof/Laws/Ops.lean ====
section
/-! SUPPORT. One lemma per shared operation that says everything it can do; proofs about commands cite these and unfold
no operation. -/

namespace Sys2Proof.Machine

theorem faulted_iff (s : State) : s.faulted = true ↔ ∃ l, s.latch = some l := by
  unfold State.faulted
  cases s.latch <;> simp

theorem not_faulted_iff (s : State) : s.faulted = false ↔ s.latch = none := by
  unfold State.faulted
  cases s.latch <;> simp

/-- With no fault latched a command ends as its pseudocode does. -/
theorem runCommand_ready {s : State} (h : s.faulted = false) (i : Instr) (e : Effect) :
    runCommand i s e = finish i s e := by
  rw [runCommand, if_neg (by simp [h])]

/-- With a fault latched it is discarded (rule R223). -/
theorem runCommand_faulted {s : State} (h : s.faulted = true) (i : Instr) (e : Effect) :
    runCommand i s e = .next s.complete := by
  rw [runCommand, if_pos h]

@[simp] theorem finish_done (i : Instr) (s t : State) : finish i s (.done t) = .next t.complete := rfl
@[simp] theorem finish_raise (i : Instr) (s : State) (c : FaultCode) :
    finish i s (.raise c) = .next (s.enterFault c (encode i)) := rfl
@[simp] theorem finish_hold (i : Instr) (s : State) : finish i s .hold = .next s := rfl
@[simp] theorem finish_unwritten (i : Instr) (s : State) : finish i s .unwritten = .fault (.hmemUnwritten i) := rfl
@[simp] theorem finish_settled (i : Instr) (s t : State) : finish i s (.settled t) = .next t := rfl

/-- Everything a command over `runCommand` can do when it answers a next state. -/
theorem runCommand_next {i : Instr} {s t : State} {e : Effect} (h : runCommand i s e = .next t) :
    (s.faulted = true ∧ t = s.complete) ∨
    (s.faulted = false ∧
      ((∃ u, e = .done u ∧ t = u.complete) ∨ (∃ c, e = .raise c ∧ t = s.enterFault c (encode i)) ∨
        (e = .hold ∧ t = s) ∨ e = .settled t)) := by
  cases hf : s.faulted with
  | true =>
    rw [runCommand_faulted hf] at h
    injection h with h
    exact .inl ⟨rfl, h.symm⟩
  | false =>
    rw [runCommand_ready hf] at h
    refine .inr ⟨rfl, ?_⟩
    cases e with
    | done u => injection h with h; exact .inl ⟨u, rfl, h.symm⟩
    | raise c => injection h with h; exact .inr (.inl ⟨c, rfl, h.symm⟩)
    | hold => injection h with h; exact .inr (.inr (.inl ⟨rfl, h.symm⟩))
    | unwritten => exact absurd h (by simp)
    | settled u => injection h with h; exact .inr (.inr (.inr (by rw [h])))

/-- `Append` either finds no room and raises BUFFER_OVERFLOW, or writes (rule R120). -/
theorem append_cases (s : State) (k : Nat) (bs : List Byte) (r : Nat) :
    (s.params.bufCap.toNat < s.cursor.toNat + k ∧ append s k bs r = .raise .bufferOverflow) ∨
    (s.cursor.toNat + k ≤ s.params.bufCap.toNat ∧ append s k bs r = .done (s.appendBytes k bs r)) := by
  unfold append
  split
  · exact .inl ⟨by omega, rfl⟩
  · exact .inr ⟨by omega, rfl⟩

/-- CURSOR does not wrap where there is room. -/
theorem appendBytes_cursor_toNat {s : State} {k : Nat} (h : s.cursor.toNat + k ≤ s.params.bufCap.toNat)
    (bs : List Byte) (r : Nat) : (s.appendBytes k bs r).cursor.toNat = s.cursor.toNat + k := by
  have := s.params.bufCap.isLt
  simp only [State.appendBytes_cursor, BitVec.toNat_ofNat]
  omega

@[simp] theorem fitAnswer_length (k : Nat) (log : List BusRecord) (r : BusRequest) (rx : List Byte) :
    (fitAnswer k log r rx).length = k := by simp [fitAnswer]

/-- The BUS answers a transport error or exactly as many bytes as were sent (rule R180). -/
theorem exchange_cases (s : State) (r : BusRequest) :
    s.exchange r = .transportError ∨ ∃ rx, s.exchange r = .received rx ∧ rx.length = r.tx.length := by
  unfold State.exchange
  split
  · exact .inl rfl
  · exact .inr ⟨_, rfl, by simp⟩
  · split
    · exact .inl rfl
    · exact .inr ⟨_, rfl, by simp⟩

/-- A HOST write that goes on was made between commands, where the byte exists (rules R61 and R67). -/
theorem hostStore_next {s t : State} {a : Nat} {b : Byte} (h : s.hostStore a b = .next t) :
    s.cmd = none ∧ a < s.params.hmemSize ∧ t = { s with hmem := s.hmem.write a b } := by
  unfold State.hostStore at h
  split at h
  · exact absurd h (by simp)
  · next h1 =>
    split at h
    · exact absurd h (by simp)
    · next h2 =>
      injection h with h
      exact ⟨by simpa using h1, by omega, h.symm⟩

/-- A word that is no command always answers a next state (rules R85, R86, R223). -/
theorem illegalCommand_next (w : Word) (s : State) :
    illegalCommand w s = .next (if s.faulted then s.complete else s.enterFault .illegalCommand w) := by
  unfold illegalCommand
  split <;> rfl

/-- Padding, as one state: CURSOR becomes the larger of CURSOR and MIN_XFER and the bytes between are idle (rule R181). -/
theorem padded_eq (s : State) :
    s.padded = { s with
      buf := s.buf.writeAll s.cursor.toNat (List.replicate (s.minXfer.toNat - s.cursor.toNat) 0xFF)
      cursor := if s.cursor.toNat < s.minXfer.toNat then s.minXfer else s.cursor } := by
  unfold State.padded
  split
  · rfl
  · next h => rw [show s.minXfer.toNat - s.cursor.toNat = 0 by omega]; rfl

/-- The scan of COMPUTE_MATCHING_BITS ends at the first index where `stop` holds (rule R156). -/
theorem firstStop_spec (stop : Nat → Bool) (i n : Nat) :
    i ≤ firstStop stop i n ∧ firstStop stop i n ≤ i + n ∧
      (∀ j, i ≤ j → j < firstStop stop i n → stop j = false) ∧
      (firstStop stop i n < i + n → stop (firstStop stop i n) = true) := by
  induction n generalizing i with
  | zero =>
    simp only [firstStop]
    exact ⟨Nat.le_refl _, Nat.le_refl _, fun j h1 h2 => absurd h2 (by omega), fun h => absurd h (by omega)⟩
  | succ n ih =>
    simp only [firstStop]
    split
    · next hs => exact ⟨Nat.le_refl _, by omega, fun j h1 h2 => absurd h2 (by omega), fun _ => hs⟩
    · next hs =>
      obtain ⟨h1, h2, h3, h4⟩ := ih (i + 1)
      refine ⟨by omega, by omega, fun j hj1 hj2 => ?_, fun h => h4 (by omega)⟩
      by_cases hij : j = i
      · subst hij; simpa using hs
      · exact h3 j (by omega) hj2

end Sys2Proof.Machine
end

