-- ==== Sys2Proof/Laws/PerInstr.lean ====
section
/-! SUPPORT. Statements about every command as syntax, one lemma per constructor. OpcodeByte: bits 7:0 of the command
word are the OP of the command's row (30_encoding.md rules R81 and R84), whatever the operands. -/

namespace Sys2Proof.Laws.OpcodeByte

/-- Bits 7:0 of the encoded command are its row's OP. -/
def Statement (i : Instr) : Prop := field (encode i) 7 0 = i.opcode.code

theorem of_any (i : Instr) : Statement i := by
  have h1 := i.opcode.code_lt
  have h2 := i.operandBits_spec.1
  simp only [Statement, field, encode_toNat]
  omega

theorem clear : Statement .clear := of_any _
theorem addPattern (b : Byte) (n : Nat) : Statement (.addPattern b n) := of_any _
theorem addPatternT (b : Byte) (t : Nat) : Statement (.addPatternT b t) := of_any _
theorem addReset : Statement .addReset := of_any _
theorem addWrite (a n : Nat) : Statement (.addWrite a n) := of_any _
theorem addRead (n : Nat) : Statement (.addRead n) := of_any _
theorem addCommand (b : Byte) : Statement (.addCommand b) := of_any _
theorem addMatchRom (u : Nat) : Statement (.addMatchRom u) := of_any _
theorem addEnumRom (u : Nat) : Statement (.addEnumRom u) := of_any _
theorem decode (o a n : Nat) : Statement (.decode o a n) := of_any _
theorem sample (o : Nat) : Statement (.sample o) := of_any _
theorem enumBitInfo (o k : Nat) : Statement (.enumBitInfo o k) := of_any _
theorem computeMatchingBits (o k : Nat) (f : Bool) : Statement (.computeMatchingBits o k f) := of_any _
theorem crcCalc (a n : Nat) : Statement (.crcCalc a n) := of_any _
theorem crcByte (b : Byte) : Statement (.crcByte b) := of_any _
theorem romCheck (a : Nat) : Statement (.romCheck a) := of_any _
theorem bitGet (a k : Nat) : Statement (.bitGet a k) := of_any _
theorem bitSet (a k : Nat) (v : Bool) : Statement (.bitSet a k v) := of_any _
theorem execute : Statement .execute := of_any _
theorem pause (t : Nat) : Statement (.pause t) := of_any _
theorem rdreg (r : Nat) : Statement (.rdreg r) := of_any _
theorem wrreg (r : Nat) (v : BitVec 48) : Statement (.wrreg r v) := of_any _
theorem faultAck : Statement .faultAck := of_any _

end Sys2Proof.Laws.OpcodeByte
end

