-- ==== Sys2Proof/Laws/Slots.lean ====
section
/-! SUPPORT. The slot bytes (42_txbuf_encode.md rule R125): their lengths and which byte stands where, and that sampling
a written slot gives the written bit (43_sample_decode.md rule R158). -/

namespace Sys2Proof.Machine

@[simp] theorem sample_enc (b : Bool) : sample (enc b) = b := by cases b <;> decide

@[simp] theorem encByte_length (b : Byte) : (encByte b).length = 8 := by simp [encByte]

@[simp] theorem encBytes_length (d : List Byte) : (encBytes d).length = 8 * d.length := by
  induction d with
  | nil => rfl
  | cons b d ih =>
    rw [encBytes] at ih ⊢
    simp only [List.flatMap_cons, List.length_append, encByte_length, ih, List.length_cons]
    omega

@[simp] theorem resetPattern_length : resetPattern.length = 11 := rfl

theorem flatMap_length_const {α β : Type} (f : α → List β) (k : Nat) (l : List α) (h : ∀ x, (f x).length = k) :
    (l.flatMap f).length = k * l.length := by
  induction l with
  | nil => rfl
  | cons x l ih => simp only [List.flatMap_cons, List.length_append, h, ih, List.length_cons]; rw [Nat.mul_succ]; omega

@[simp] theorem enumRegion_length (id : List Byte) : (enumRegion id).length = 168 := by
  rw [enumRegion, flatMap_length_const (enumTriplet id) 3 _ (fun _ => rfl), List.length_range]

/-- The element at `k * q + r` of pieces of equal length `k` laid end to end is element `r` of piece `q`. -/
theorem flatMap_getElem? {α β : Type} (f : α → List β) (k : Nat) (l : List α) (h : ∀ x, (f x).length = k)
    {q r : Nat} (hr : r < k) : (l.flatMap f)[k * q + r]? = (l[q]?).bind fun x => (f x)[r]? := by
  induction l generalizing q with
  | nil => simp
  | cons x l ih =>
    rw [List.flatMap_cons]
    cases q with
    | zero => rw [List.getElem?_append_left (by rw [h]; omega)]; simp
    | succ q =>
      rw [List.getElem?_append_right (by rw [h, Nat.mul_succ]; omega), h,
        show k * (q + 1) + r - k = k * q + r by rw [Nat.mul_succ]; omega, ih, List.getElem?_cons_succ]

theorem encByte_getElem? (b : Byte) {j : Nat} (h : j < 8) : (encByte b)[j]? = some (enc (b.getLsbD j)) := by
  rw [encByte, List.getElem?_map, List.getElem?_range h]; rfl

/-- Bit `j` of byte `q` stands at slot `8 * q + j` (rule R127). -/
theorem encBytes_getElem? (d : List Byte) {q j : Nat} (h : j < 8) :
    (encBytes d)[8 * q + j]? = (d[q]?).map fun b => enc (b.getLsbD j) := by
  rw [encBytes, flatMap_getElem? encByte 8 d encByte_length h]
  cases d[q]? with
  | none => rfl
  | some b => exact encByte_getElem? b h

end Sys2Proof.Machine
end

