-- ==== Sys2Proof/Machine/Responder.lean ====
section
/-! DEFINITION. The reference responder of 95_test_vectors.md section 4, a BUS agent a claim may take as a premise
(44_bus_timing.md rule R180, 92_eei_decisions.md D45). No command's meaning depends on it. -/

namespace Sys2Proof.Machine

/-- A device on the wire: its 8-byte ROM code and its scratchpad (empty when it has none). -/
structure Device where
  rom : List Byte
  scratchpad : List Byte
  deriving DecidableEq, Repr

/-- The device states of section 4. -/
inductive DeviceState where
  | idle
  | finished
  /-- ROMCMD: the command bits collected so far, first slot first -/
  | romCmd (bits : List Bool)
  /-- SEND: the bits still to send -/
  | send (bits : List Bool)
  /-- MATCH at ROM bit `k` -/
  | matchRom (k : Nat)
  /-- SEARCH at ROM bit `k`, phase 0, 1 or 2 -/
  | searchRom (k : Nat) (phase : Fin 3)
  /-- FUNC: the function command bits collected so far -/
  | func (bits : List Bool)
  deriving DecidableEq, Repr

/-- The bits of a byte list, byte 0 first and LSB first. -/
def bitsOfBytes (bs : List Byte) : List Bool := bs.flatMap fun b => (List.range 8).map b.getLsbD

/-- ROM bit `k`: bit `k & 7` of ROM byte `k >> 3`. -/
def Device.romBit (d : Device) (k : Nat) : Bool := (d.rom.getD (k / 8) 0).getLsbD (k % 8)

/-- The byte that eight collected bits spell, first slot = bit 0. -/
def numberOfBits (bits : List Bool) : Nat := bits.foldr (fun b n => b.toNat + 2 * n) 0

/-- SEND with the given bits, or DONE when there are none. -/
def startSend (bits : List Bool) : DeviceState := if bits.isEmpty then .finished else .send bits

/-- The state after a full ROM command byte. -/
def Device.afterRomCmd (d : Device) (c : Nat) : DeviceState :=
  if c = 0x33 then .send (bitsOfBytes d.rom)
  else if c = 0xCC then .func []
  else if c = 0x55 then .matchRom 0
  else if c = 0xF0 then .searchRom 0 0
  else .idle

/-- The state after a full function command byte. -/
def Device.afterFunc (d : Device) (c : Nat) : DeviceState :=
  if c = 0xBE then startSend (bitsOfBytes d.scratchpad) else .finished

/-- One slot with written bit `w` offered to a device: whether it drives 0, and its next state (the device table). -/
def Device.slot (d : Device) (w : Bool) : DeviceState → Bool × DeviceState
  | .idle => (false, .idle)
  | .finished => (false, .finished)
  | .romCmd bits =>
    (false, if bits.length + 1 = 8 then d.afterRomCmd (numberOfBits (bits ++ [w])) else .romCmd (bits ++ [w]))
  | .send [] => (false, .finished)
  | .send (v :: vs) => (!v && w, startSend vs)
  | .matchRom k =>
    (false, if w ≠ d.romBit k then .idle else if k + 1 = 64 then .func [] else .matchRom (k + 1))
  | .searchRom k 0 => (!d.romBit k && w, .searchRom k 1)
  | .searchRom k 1 => (d.romBit k && w, .searchRom k 2)
  | .searchRom k 2 =>
    (false, if w ≠ d.romBit k then .idle else if k + 1 = 64 then .finished else .searchRom (k + 1) 0)
  | .func bits =>
    (false, if bits.length + 1 = 8 then d.afterFunc (numberOfBits (bits ++ [w])) else .func (bits ++ [w]))

/-- A bus population: the devices, each with its state. -/
abbrev Population := List (Device × DeviceState)

/-- Every device enters ROMCMD and forgets any partial byte. -/
def Population.resetPulse (p : Population) : Population := p.map fun x => (x.1, .romCmd [])

/-- A slot offered to every device in turn: whether any drives 0, and the population after it. -/
def Population.slot (p : Population) (w : Bool) : Bool × Population :=
  (p.any fun x => (x.1.slot w x.2).1, p.map fun x => (x.1, (x.1.slot w x.2).2))

/-- One line byte that is not part of a zero run: what is received of it; none outside the premise's byte classes. -/
def Population.lineByte (p : Population) (b : Byte) : Option (Byte × Population) :=
  if b = 0xFF then some (b, p)
  else if b = 0x7F then
    match p.slot true with
    | (drives, p') => some (if drives then b &&& 0x0F else b, p')
  else if b = 0x03 then some (b, (p.slot false).2)
  else none

/-- The walk over the line bytes. `zeros` counts the run of 0x00 bytes just before; `presence` is the masks the next
bytes are still ANDed with (the presence pulse). A run of 1 to 6 zero bytes is outside the premise. -/
def Population.walk : Population → Nat → List Byte → List Byte → Option (List Byte × Population)
  | p, zeros, _, [] =>
    if zeros = 0 then some ([], p) else if zeros < 7 then none else some ([], p.resetPulse)
  | p, zeros, masks, b :: bs =>
    if b = 0x00 then
      match Population.walk p (zeros + 1) masks.tail bs with
      | none => none
      | some (rx, p') => some (0x00 :: rx, p')
    else if 0 < zeros ∧ zeros < 7 then none
    else
      let p1 := if zeros = 0 then p else p.resetPulse
      let masks1 : List Byte := if zeros = 0 then masks else if p.isEmpty then [] else [0xF0, 0x00]
      match p1.lineByte b with
      | none => none
      | some (r, p2) =>
        match Population.walk p2 0 masks1.tail bs with
        | none => none
        | some (rx, p') => some ((r &&& masks1.headD 0xFF) :: rx, p')

/-- The line bytes of a request: an inverting driver stage undoes INVERT_TX. -/
def lineBytes (r : BusRequest) : List Byte :=
  r.tx.map fun b => b ^^^ (if r.inverted then 0xFF#8 else 0x00#8)

/-- What the responder answers to a request, and the population after it; none outside the premise. -/
def Population.respond (p : Population) (r : BusRequest) : Option (List Byte × Population) := p.walk 0 [] (lineBytes r)

/-- The population after a history of exchanges; none once one of them was outside the premise. A failed exchange
counts like an answered one, its whole request walked: the spec calls the devices' state unknown after one
(70_reset_and_hazards.md rule R259) and section 4 is silent, so this is the model's choice (assumption 19). -/
def Population.afterLog (p : Population) : List BusRecord → Option Population
  | [] => some p
  | c :: cs =>
    match p.respond c.request with
    | none => none
    | some (_, p') => Population.afterLog p' cs

/-- THE BUS PREMISE: the BUS agent answers as the reference responder with population `p` does, told to fail at the
exchanges listed in `failing`, counted from 0, and at no other (section 4, Transport error). -/
def Population.IsTheBus (p : Population) (failing : List Nat) : Prop :=
  ∀ (log : List BusRecord) (r : BusRequest),
    Config.busFails log r = failing.contains log.length ∧
      ∀ p' rx p'', p.afterLog log = some p' → p'.respond r = some (rx, p'') →
        ∀ j, j < rx.length → Config.busByte log r j = rx.getD j 0

end Sys2Proof.Machine
end

