-- ==== Sys2Proof/Tests/Slice0.lean ====
section
/-! SUPPORT. The model's own tests. Expected values come from spec/: the words and outcomes of 95_test_vectors.md and of
30_encoding.md rule R90, and the examples of the command rules. A `witness_` theorem shows states and operands that meet
the premises of the statement it names, one conjunct per clause, at the boundary of the clause. -/

namespace Sys2Proof.Tests

open Sys2Proof.Machine

set_option maxRecDepth 100000

/-! ### Helpers -/

/-- The next state of one step that runs the word `w` satisfies `p`. -/
def after (w : Nat) (s : State) (p : State → Bool) : Bool :=
  match step (s.withFetchWord 64 w) with
  | .next t => p t
  | _ => false

/-- The reset state with bytes in HMEM. -/
def withHmem (a : Nat) (bs : List Byte) : State := { State.reset with hmem := Memory.writeAll [] a bs }

/-- The reset state with bytes in BUF, CURSOR just above them. -/
def withBuf (a : Nat) (bs : List Byte) : State :=
  { State.reset with buf := Memory.writeAll [] a bs, cursor := BitVec.ofNat 16 (a + bs.length) }

/-- The reset state with CURSOR moved, as an ADD_PATTERN would leave it. -/
def cursorAt (c : Nat) : State := { State.reset with cursor := BitVec.ofNat 16 c }

/-- The bytes `BUF[a .. a+n-1]`. -/
def bufBytes (s : State) (a n : Nat) : Option (List Byte) := s.buf.readAll a n

def latched : State := { State.reset with latch := some { code := .illegalCommand, op := 0 } }

/-- A 168-byte enum region at 0 whose triplets are all `t` but bit 7, which is `u`. -/
def region (t u : List Byte) : State :=
  withBuf 0 ((List.range 56).flatMap fun i => if i = 7 then u else t)


/-! ### Decoding: a word of every command (95_test_vectors.md, rule R90) -/

theorem test_decode_clear : decodeWord 0x0000000000000010 = .command (.clear) := by decide
theorem test_decode_addPattern : decodeWord 0x000000000004FF11 = .command (.addPattern 0xFF 4) := by decide
theorem test_decode_addPatternT : decodeWord 0x000000075300FF12 = .command (.addPatternT 0xFF 480000) := by decide
theorem test_decode_addReset : decodeWord 0x0000000000000013 = .command (.addReset) := by decide
theorem test_decode_addWrite : decodeWord 0x0000000200200014 = .command (.addWrite 32 2) := by decide
theorem test_decode_addRead : decodeWord 0x0000000000180015 = .command (.addRead 24) := by decide
theorem test_decode_addCommand : decodeWord 0x000000000000CC16 = .command (.addCommand 0xCC) := by decide
theorem test_decode_addMatchRom : decodeWord 0x0000000000F90017 = .command (.addMatchRom 249) := by decide
theorem test_decode_addEnumRom : decodeWord 0x0000000000400018 = .command (.addEnumRom 0x40) := by decide
theorem test_decode_decode : decodeWord 0x00080020005B0020 = .command (.decode 91 0x20 8) := by decide
theorem test_decode_sample : decodeWord 0x0000000000080021 = .command (.sample 8) := by decide
theorem test_decode_enumBitInfo : decodeWord 0x0000003800130022 = .command (.enumBitInfo 19 56) := by decide
theorem test_decode_computeMatchingBits : decodeWord 0x0000010100130023 = .command (.computeMatchingBits 19 1 true) := by decide
theorem test_decode_crcCalc : decodeWord 0x0000000700FA0030 = .command (.crcCalc 250 7) := by decide
theorem test_decode_crcByte : decodeWord 0x0000000000005E31 = .command (.crcByte 0x5E) := by decide
theorem test_decode_romCheck : decodeWord 0x0000000000100032 = .command (.romCheck 16) := by decide
theorem test_decode_bitGet : decodeWord 0x0000003700000038 = .command (.bitGet 0 55) := by decide
theorem test_decode_bitSet : decodeWord 0x0000010900000039 = .command (.bitSet 0 9 true) := by decide
theorem test_decode_execute : decodeWord 0x0000000000000040 = .command (.execute) := by decide
theorem test_decode_pause : decodeWord 0x00002CB417800041 = .command (.pause 750000000) := by decide
theorem test_decode_rdreg : decodeWord 0x0000000000000B48 = .command (.rdreg 0x0B) := by decide
theorem test_decode_wrreg : decodeWord 0x0000000100000749 = .command (.wrreg 7 65536) := by decide
theorem test_decode_faultAck : decodeWord 0x000000000000004F = .command (.faultAck) := by decide

/-- The table's numbering is the word's own (rule R80). -/
theorem test_decodeTableWord : decodeTableWord 64 0x00080020005B0020 = some (.decode 91 0x20 8) := by decide
/-- 95_test_vectors.md section 2.6: the all-zero word, a reserved opcode, and reserved bits. -/
theorem test_illegal_words :
    decodeWord 0x0 = .illegal (.reservedOpcode 0) ∧ decodeWord 0xFF = .illegal (.reservedOpcode 0xFF) ∧
    decodeWord 0x110 = .illegal (.reservedBits .clear) ∧ decodeWord 0x10048 = .illegal (.reservedBits .rdreg) ∧
    decodeWord 0x0000010000000022 = .illegal (.reservedBits .enumBitInfo) ∧
    decodeWord 0x0000010000000023 = .command (.computeMatchingBits 0 0 true) := by decide

/-! ### WellFormed refuses an operand that does not fit its field (rule R88) -/

theorem test_illFormed_addPattern : Instr.wellFormed (.addPattern 0 65536) = false := by decide
theorem test_illFormed_addPatternT : Instr.wellFormed (.addPatternT 0 0x1000000000000) = false := by decide
theorem test_illFormed_addWrite : Instr.wellFormed (.addWrite 65536 0) = false ∧ Instr.wellFormed (.addWrite 0 65536) = false := by decide
theorem test_illFormed_addRead : Instr.wellFormed (.addRead 65536) = false := by decide
theorem test_illFormed_addMatchRom : Instr.wellFormed (.addMatchRom 65536) = false := by decide
theorem test_illFormed_addEnumRom : Instr.wellFormed (.addEnumRom 65536) = false := by decide
theorem test_illFormed_decode : Instr.wellFormed (.decode 65536 0 0) = false ∧ Instr.wellFormed (.decode 0 65536 0) = false ∧ Instr.wellFormed (.decode 0 0 65536) = false := by decide
theorem test_illFormed_sample : Instr.wellFormed (.sample 65536) = false := by decide
theorem test_illFormed_enumBitInfo : Instr.wellFormed (.enumBitInfo 65536 0) = false ∧ Instr.wellFormed (.enumBitInfo 0 256) = false := by decide
theorem test_illFormed_computeMatchingBits : Instr.wellFormed (.computeMatchingBits 65536 0 false) = false ∧ Instr.wellFormed (.computeMatchingBits 0 256 true) = false := by decide
theorem test_illFormed_crcCalc : Instr.wellFormed (.crcCalc 65536 0) = false ∧ Instr.wellFormed (.crcCalc 0 65536) = false := by decide
theorem test_illFormed_romCheck : Instr.wellFormed (.romCheck 65536) = false := by decide
theorem test_illFormed_bitGet : Instr.wellFormed (.bitGet 65536 0) = false ∧ Instr.wellFormed (.bitGet 0 256) = false := by decide
theorem test_illFormed_bitSet : Instr.wellFormed (.bitSet 65536 0 true) = false ∧ Instr.wellFormed (.bitSet 0 256 true) = false := by decide
theorem test_illFormed_pause : Instr.wellFormed (.pause 0x1000000000000) = false := by decide
theorem test_illFormed_rdreg : Instr.wellFormed (.rdreg 256) = false := by decide
theorem test_illFormed_wrreg : Instr.wellFormed (.wrreg 256 0) = false := by decide
theorem test_wellFormed_at_the_bounds : Instr.wellFormed (.decode 65535 65535 65535) = true ∧
    Instr.wellFormed (.pause 0xFFFFFFFFFFFF) = true ∧ Instr.wellFormed (.rdreg 255) = true := by decide

/-! ### One step of each command (95_test_vectors.md section 2, and the rules' examples) -/

theorem test_clear : after 0x10 (cursorAt 187) (fun t => t.cursor == 0 && t.cmdDone) = true := by decide
theorem test_addPattern : after 0x4FF11 State.reset (fun t =>
    bufBytes t 0 4 == some [0xFF, 0xFF, 0xFF, 0xFF] && t.cursor == 4 && t.result == 0) = true := by decide
theorem test_addPattern_overflows : after 0xC1FF11 State.reset (fun t =>
    t.statusWord == 0x110102 && t.cursor == 0 && t.buf == []) = true := by decide
theorem test_addPatternT_rounds_up : after 0x000000013881FF12 State.reset (fun t => t.cursor == 2) = true := by decide
theorem test_addPatternT_overflows : after 0x000000EAFC40FF12 State.reset (fun t =>
    t.statusWord == 0x120102) = true := by decide
theorem test_addReset : after 0x13 (cursorAt 181) (fun t =>
    bufBytes t 181 11 == some [0, 0, 0, 0, 0, 0, 0, 0xFF, 0xFF, 0xFF, 0xFF] && t.cursor == 192 &&
      t.result == 189) = true := by decide
theorem test_addWrite : after 0x0000000200200014 (withHmem 0x20 [0xA5, 0x01]) (fun t =>
    bufBytes t 0 16 == some ([0x7F, 3, 0x7F, 3, 3, 0x7F, 3, 0x7F] ++ [0x7F, 3, 3, 3, 3, 3, 3, 3]) &&
      t.cursor == 16) = true := by decide
theorem test_addWrite_range : after 0x0000000700FA0014 State.reset (fun t => t.statusWord == 0x140104) = true := by
  decide
theorem test_addRead : after 0x00010015 State.reset (fun t =>
    bufBytes t 0 8 == some (List.replicate 8 0x7F) && t.cursor == 8) = true := by decide
theorem test_addCommand : after 0xBE16 State.reset (fun t =>
    bufBytes t 0 8 == some [3, 0x7F, 0x7F, 0x7F, 0x7F, 0x7F, 3, 0x7F]) = true := by decide
theorem test_addMatchRom : after 0x17 { withHmem 0 [0x10, 0, 0, 0, 0, 0, 0] with cursor := 11 } (fun t =>
    bufBytes t 11 16 == some [0x7F, 3, 0x7F, 3, 0x7F, 3, 0x7F, 3, 3, 3, 3, 3, 0x7F, 3, 3, 3] &&
      bufBytes t 75 8 == some [0x7F, 0x7F, 3, 0x7F, 0x7F, 0x7F, 0x7F, 0x7F] && t.cursor == 83 &&
      t.result == 11) = true := by decide
theorem test_addEnumRom : after 0x18 { withHmem 0 [5, 0, 0, 0, 0, 0, 0x80] with cursor := 11 } (fun t =>
    bufBytes t 19 12 == some [0x7F, 0x7F, 0x7F, 0x7F, 0x7F, 3, 0x7F, 0x7F, 0x7F, 0x7F, 0x7F, 3] &&
      bufBytes t 184 3 == some [0x7F, 0x7F, 0x7F] && t.cursor == 187 && t.result == 19) = true := by decide
theorem test_addEnumRom_overflows :
    after 0x18 { withHmem 0 [5, 0, 0, 0, 0, 0, 0x80] with
      cursor := 11, params := { Params.default with bufCap := 186 } } (fun t =>
    t.statusWord == 0x180102 && t.cursor == 11) = true := by decide
theorem test_decode : after 0x00010030005B0020 (withBuf 91 [0x0F, 0x7F, 0x7F, 0x7F, 0x0F, 0x0F, 0x0F, 0x0F])
    (fun t => t.hmem == [(0x30, 0x0E)] && t.result == 0) = true := by decide
theorem test_decode_empty_past_cursor : after 0x0000003000090020 (cursorAt 8) (fun t =>
    t.statusWord == 0x200103) = true := by decide
theorem test_sample : after 0x80021 (withBuf 0 [0, 0, 0, 0, 0, 0, 0, 0xF0, 0x00, 0xFF, 0xFF]) (fun t =>
    t.result == 0) = true := by decide
theorem test_sample_at_cursor : after 0xB0021 (cursorAt 11) (fun t => t.statusWord == 0x210103) = true := by decide
theorem test_enumBitInfo_all_ones : after 0x0000000700000022 (region [0x0F, 0x7F, 3] [0x7F, 0x0F, 3]) (fun t =>
    t.result == 6) = true := by decide
theorem test_enumBitInfo_index : after 0x0000003800000022 (region [0x0F, 0x7F, 3] [0x7F, 0x0F, 3]) (fun t =>
    t.statusWord == 0x220105) = true := by decide
theorem test_computeMatchingBits_fork : after 0x23 (region [0x0F, 0x7F, 3] [0x0F, 0x0F, 3]) (fun t =>
    t.result == 7) = true := by decide
theorem test_computeMatchingBits_allows_fork :
    after 0x0000010000000023 (region [0x0F, 0x7F, 3] [0x0F, 0x0F, 3]) (fun t => t.result == 56) = true := by decide
theorem test_crcCalc : after 0x0000000700000030 (withHmem 0 [0x10, 0, 0, 0, 0, 0, 0]) (fun t =>
    t.result == 0xFB && t.crcAcc == 0) = true := by decide
theorem test_crcCalc_range_before_unwritten : after 0x0000000001010030 State.reset (fun t =>
    t.statusWord == 0x300104) = true := by decide
theorem test_crcByte : after 0x131 State.reset (fun t => t.crcAcc == 0x5E && t.result == 0x5E) = true := by decide
theorem test_romCheck : after 0x100032 (withHmem 0x10 [0x02, 0x1C, 0xB8, 0x01, 0, 0, 0, 0xA2]) (fun t =>
    t.result == 0xA2) = true := by decide
theorem test_romCheck_mismatch : after 0x100032 (withHmem 0x10 [0x02, 0x1C, 0xB8, 0x01, 0, 0, 0, 0xA3]) (fun t =>
    t.statusWord == 0x320106) = true := by decide
theorem test_bitGet : after 0x0000003700000038 (withHmem 0 [0x10, 0, 0, 0, 0, 0, 0x80]) (fun t =>
    t.result == 1) = true := by decide
theorem test_bitGet_index_before_range : after 0x0000003800FA0038 State.reset (fun t =>
    t.statusWord == 0x380105) = true := by decide
theorem test_bitSet : after 0x0000010900000039 (withHmem 0 [0x10, 0, 0, 0, 0, 0, 0x80]) (fun t =>
    t.hmem == Memory.writeAll [] 0 [0x10, 2, 0, 0, 0, 0, 0x80] && t.result == 0) = true := by decide
/-- Rule R181's example with an echo bus, and INVERT_TX. -/
theorem test_execute : after 0x40
    { withBuf 0 [0x7F, 0x03] with invertTx := true, minXfer := 3, busAnswers := [.received [0x80, 0xFC, 0x00]] }
    (fun t => bufBytes t 0 3 == some [0x80, 0xFC, 0x00] && t.cursor == 3 && t.result == 3 &&
      t.busLog.map (fun c => c.request.tx) == [[0x80, 0xFC, 0x00]]) = true := by decide
theorem test_execute_transport_error : after 0x40
    { withBuf 0 [0x7F] with minXfer := 2, spuEngaged := true, busAnswers := [.transportError] }
    (fun t => t.statusWord == 0x400107 && t.cursor == 2 && !t.spuEngaged && t.result == 0 && t.cmdDone) = true := by
  decide
theorem test_pause : after 0x00002CB417800041
    { State.reset with now := 1000, params := { Params.default with spuMode := .pMosfet } }
    (fun t => t.pausedUntil == 750001000 && t.result == 750001000 && t.regValue .spu == 6 &&
      t.statusWord == 0x600 && t.spuPin == .output false) = true := by decide
theorem test_pause_saturates : after 0x0000000000640041 { State.reset with now := 0xFFFFFFFFFFFFFFF6 }
    (fun t => t.pausedUntil == 0xFFFFFFFFFFFFFFFF) = true := by decide
theorem test_rdreg_speed : after 0x448 State.reset (fun t => t.result == 2) = true := by decide
theorem test_rdreg_reserved : after 0xC48 State.reset (fun t => t.statusWord == 0x480108) = true := by decide
theorem test_wrreg_speed : after 0x0000000000030449 State.reset (fun t =>
    t.regValue .speed == 3 && t.spiHz == 1000000 && t.spiClkSet == 1000000) = true := by decide
theorem test_wrreg_value : after 0x0000000100000749 State.reset (fun t =>
    t.statusWord == 0x490109 && t.minXfer == 0) = true := by decide
theorem test_faultAck : after 0x4F latched (fun t => t.statusWord == 0 && t.cmdDone) = true := by decide

/-! ### The machine around the commands -/

/-- An EXECUTE held on a pause writes nothing; the CLOCK lifts the hold (95_test_vectors.md section 2.5). -/
theorem test_hold_then_clock :
    (match Host.Core.run Sys2Proof.core 3
        { State.reset with
          cmd := some 0x40, pausedUntil := 5000, now := 10
          moves := [.block, .clock 6000, .block], busAnswers := [.received []] } with
      | .next t => t.now == 6000 && t.cmdDone && t.cmd == none && t.busLog.length == 1
      | _ => false) = true := by decide
/-- 95_test_vectors.md section 2.6: a latched fault discards ADD_RESET and RDREG 0x20; RDREG 0 still reads STATUS. -/
theorem test_discard : after 0x13 latched (fun t => t.cursor == 0 && t.statusWord == 0x101 && t.cmdDone) = true ∧
    after 0x2048 latched (fun t => t.statusWord == 0x101 && t.result == 0) = true ∧
    after 0x48 latched (fun t => t.result == 0x101) = true ∧
    after 0x14F latched (fun t => t.statusWord == 0x101) = true := by decide
/-- The model-only fault names the command (rule R234). -/
theorem test_unwritten_names_the_command :
    (match step (State.reset.withFetchWord 64 0x32) with
      | .fault f => f == .hmemUnwritten (.romCheck 0)
      | _ => false) = true := by decide
/-- 95_test_vectors.md section 2.1: `Crc8` of the Maxim reference code and of single bytes. -/
theorem test_crc_vectors : crc8 0 [0x02, 0x1C, 0xB8, 0x01, 0, 0, 0] = 0xA2 ∧ crc8 0 [0x80] = 0x8C ∧
    crc8 0 [0xFF] = 0x35 ∧ crc8 0xFF [0] = 0x35 ∧ crc8 0x5E [0x5E] = 0 := by decide
/-- 95_test_vectors.md section 2.4: the sampling rule's table. -/
theorem test_sample_table : (([0x00, 0x03, 0x0F, 0x30, 0x6F, 0x8F, 0xEF, 0x60] : List Byte).all (fun b => !sample b) &&
    ([0x70, 0x7F, 0xF0, 0xFF] : List Byte).all sample) = true := by decide
/-- 95_test_vectors.md P3: BUF[7..8] and the first two triplets that the reference responder answers to a search. -/
theorem test_responder_search :
    (((Population.respond [({ rom := [0x02, 0x1C, 0xB8, 0x01, 0, 0, 0, 0xA2], scratchpad := [] }, .idle)]
      { tx := resetPattern ++ encByte 0xF0 ++ [0x7F, 0x7F, 3, 0x7F, 0x7F, 3, 0x7F, 0x7F], hz := 100000, now := 0
        spuMode := .none, wasEngaged := false, inverted := false }).map fun x => x.1.drop 7) ==
      some ([0xF0, 0x00, 0xFF, 0xFF] ++ encByte 0xF0 ++ [0x0F, 0x7F, 3, 0x7F, 0x0F, 3, 0x7F, 0x7F])) = true := by decide
/-- 95_test_vectors.md section 2.5: BUS_RESET with one device present. -/
theorem test_busReset :
    (match busReset { State.reset with
        busAnswers := [.received (List.replicate 7 0x00 ++ [0xF0, 0x00, 0xFF, 0xFF])] } with
      | .ok present t => present && t.result == 0 && t.cursor == 11
      | _ => false) = true := by decide
/-- Rule R202: a search on an empty bus records nothing. -/
theorem test_search_empty_bus :
    (match search 0x40 56 nullUuid 0 { State.reset with busAnswers := [.received (List.replicate 187 0xFF)] } with
      | .ok found t => found == [] && t.busLog.length == 1 && t.cursor == 187
      | _ => false) = true := by decide


/-! ### Witnesses of the statements' premises -/

/-- A waiting block that has accepted `w`. -/
def accepted (w : Word) : State := { State.reset with cmd := some w }

theorem witness_DecodeOfEncodeIsTheCommand : Instr.wellFormed (.decode 65535 0 65535) = true := by decide
theorem witness_EncodeOfDecodeIsTheWord :
    decodeWord 0xFFFFFFFFFFFFFF49 = .command (.wrreg 0xFF 0xFFFFFFFFFFFF) := by decide
theorem witness_ReservedOpcodeTakesIllegalCommand :
    ([0x00, 0x0F, 0x19, 0x1F, 0x24, 0x2F, 0x33, 0x37, 0x3A, 0x3F, 0x42, 0x47, 0x4A, 0x4E, 0x50, 0xFF] : List Nat).all
      (fun op => field (BitVec.ofNat 64 op) 7 0 == op) = true ∧
    (accepted 0xFF).latch = none ∧ (accepted 0xFF).moves = [] ∧ (accepted 0xFF).cmd = some 0xFF := by decide
/-- Every reserved range of every row has a word that breaks it. -/
theorem witness_RejectsReservedBits :
    Opcode.all.all (fun op => op.format.reserved.all fun r =>
      field (BitVec.ofNat 64 (op.code + 2 ^ r.2)) 7 0 == op.code &&
        !op.format.clean (BitVec.ofNat 64 (op.code + 2 ^ r.1))) = true ∧
    (accepted 0x110).latch = none ∧ (accepted 0x110).moves = [] ∧ (accepted 0x110).cmd = some 0x110 := by decide
theorem witness_StepRunsTheAcceptedCommand :
    (accepted 0x13).cmd = some 0x13 ∧ decodeWord 0x13 = .command .addReset ∧ (accepted 0x13).moves = [] ∧
    ({ accepted 0x13 with moves := [.block] } : State).moves = .block :: [] ∧
    ({ accepted 0x13 with moves := [.command 0x10] } : State).moves = .command 0x10 :: [] ∧
    ({ accepted 0x110 with moves := [.command 0x10] } : State).cmd = some 0x110 ∧
    decodeWord 0x110 = .illegal (.reservedBits .clear) ∧ (accepted 0x110).latch = none ∧
    ({ latched with cmd := some 0x110, moves := [.block] } : State).latch =
      some { code := .illegalCommand, op := 0 } := by decide
theorem witness_PlacedWordRunsNext : Instr.wellFormed (.addPattern 0xFF 65535) = true := by decide
theorem witness_HostMovesTakeEffectBetweenCommands :
    State.reset.cmd = none ∧ State.reset.moves = [] ∧
    ({ State.reset with moves := [.command 0x13] } : State).cmd = none ∧
    (255#16).toNat < State.reset.params.hmemSize ∧
    ({ State.reset with moves := [.hostWrite 255 7] } : State).moves = .hostWrite 255 7 :: [] ∧
    ({ accepted 0x40 with moves := [.hostWrite 255 7] } : State).cmd = some 0x40 := by decide
theorem witness_FaultedBlockDiscardsCommands :
    latched.latch = some { code := .illegalCommand, op := 0 } ∧ (0x0B < 0x0C) ∧
    decodeWord 0x14F = .illegal (.reservedBits .faultAck) ∧ regOfNumber 0x0B = some .now ∧
    ({ latched with cmd := some 0x14F } : State).moves = [] := by decide
theorem witness_FaultEntryIsPrecise :
    (match step (accepted 0x21) with
      | .next t => t.latch == some { code := .bufferRange, op := 0x21 }
      | _ => false) = true ∧
    (match step { accepted 0x40 with busAnswers := [.transportError] } with
      | .next t => t.latch == some { code := .transportError, op := 0x40 }
      | _ => false) = true ∧
    (match step (accepted 0x110) with
      | .next t => t.latch == some { code := .illegalCommand, op := 0x10 }
      | _ => false) = true ∧ (accepted 0x21).latch = none ∧ (accepted 0x21).moves = [] := by decide
theorem witness_FaultAckClearsTheLatch :
    ({ latched with cmd := some 0x14F } : State).latch = some { code := .illegalCommand, op := 0 } ∧
    field 0x14F 7 0 = 0x4F ∧ (0x14F : Word) ≠ 0x4F := by decide
theorem witness_FaultLogIsAppendOnly :
    (match step (accepted 0x00) with
      | .next t => t.faultLog == [(.illegalCommand, 0)]
      | _ => false) = true ∧
    (match step { latched with moves := [.reset], faultLog := [(.illegalCommand, 0)] } with
      | .next t => t.faultLog == [(.illegalCommand, 0)] && t.latch == none
      | _ => false) = true := by decide
theorem witness_ClearResetsTheCursor : (cursorAt 192).latch = none := by decide
theorem witness_AddPatternAppendsCopies :
    State.reset.latch = none ∧ State.reset.cursor.toNat + 192 ≤ State.reset.params.bufCap.toNat ∧
    State.reset.params.bufCap.toNat < State.reset.cursor.toNat + 193 := by decide
theorem witness_AddPatternTCoversTheDuration :
    State.reset.latch = none ∧ 80001 * State.reset.spiHz.toNat ≤ 2 * (8 * 1000000000) ∧
    (∀ m, 80001 * State.reset.spiHz.toNat ≤ m * (8 * 1000000000) → 2 ≤ m) ∧
    State.reset.cursor.toNat + 2 ≤ State.reset.params.bufCap.toNat ∧
    (cursorAt 191).params.bufCap.toNat < (cursorAt 191).cursor.toNat + 2 := by
  refine ⟨by decide, by decide, fun m h => ?_, by decide, by decide⟩
  have h1 : State.reset.spiHz.toNat = 100000 := by decide
  rw [h1] at h
  omega
theorem witness_AddResetAppendsResetPulse :
    (cursorAt 181).latch = none ∧ (cursorAt 181).cursor.toNat + 11 ≤ (cursorAt 181).params.bufCap.toNat ∧
    (cursorAt 182).params.bufCap.toNat < (cursorAt 182).cursor.toNat + 11 := by decide
theorem witness_AddWriteEncodesEachBit :
    (withHmem 255 [0x44]).hmem.readAll 255 1 = some [0x44] ∧ 255 + 1 ≤ (withHmem 255 [0x44]).params.hmemSize ∧
    (withHmem 255 [0x44]).cursor.toNat + 8 * 1 ≤ (withHmem 255 [0x44]).params.bufCap.toNat ∧
    State.reset.params.hmemSize < 255 + 2 ∧
    (0 + 25 ≤ State.reset.params.hmemSize ∧ State.reset.params.bufCap.toNat < State.reset.cursor.toNat + 8 * 25) ∧
    (0 < 1 ∧ State.reset.hmem.read (0 + 0) = none) := by decide
theorem witness_AddReadAppendsProbes :
    State.reset.latch = none ∧ State.reset.cursor.toNat + 8 * 24 ≤ State.reset.params.bufCap.toNat ∧
    State.reset.params.bufCap.toNat < State.reset.cursor.toNat + 8 * 25 := by decide
theorem witness_AddCommandEncodesItsByte :
    (cursorAt 184).latch = none ∧ (cursorAt 184).cursor.toNat + 8 ≤ (cursorAt 184).params.bufCap.toNat ∧
    (cursorAt 185).params.bufCap.toNat < (cursorAt 185).cursor.toNat + 8 := by decide

/-- A UUID at the top of HMEM, and CURSOR at `c`. -/
def uuidAtTop (c : Nat) : State := { withHmem 249 [0x10, 0, 0, 0, 0, 0, 0x80] with cursor := BitVec.ofNat 16 c }

theorem witness_AddMatchRomSendsTheComputedCrc :
    (uuidAtTop 120).latch = none ∧ 249 + 7 ≤ (uuidAtTop 120).params.hmemSize ∧
    (uuidAtTop 120).cursor.toNat + 72 ≤ (uuidAtTop 120).params.bufCap.toNat ∧
    (uuidAtTop 120).hmem.readAll 249 7 = some [0x10, 0, 0, 0, 0, 0, 0x80] ∧
    (uuidAtTop 120).params.hmemSize < 250 + 7 ∧
    (uuidAtTop 121).params.bufCap.toNat < (uuidAtTop 121).cursor.toNat + 72 ∧
    (uuidAtTop 120).hmem.read (248 + 0) = none := by decide
theorem witness_AddEnumRomAppendsTheSearchRegion :
    (uuidAtTop 16).latch = none ∧ 249 + 7 ≤ (uuidAtTop 16).params.hmemSize ∧
    (uuidAtTop 16).cursor.toNat + 176 ≤ (uuidAtTop 16).params.bufCap.toNat ∧
    (uuidAtTop 16).hmem.readAll 249 7 = some [0x10, 0, 0, 0, 0, 0, 0x80] ∧
    (uuidAtTop 16).params.hmemSize < 250 + 7 ∧
    (uuidAtTop 17).params.bufCap.toNat < (uuidAtTop 17).cursor.toNat + 176 ∧
    (uuidAtTop 16).hmem.read (248 + 0) = none := by decide
theorem witness_ReadRomSequenceReturnsProbeStart :
    (cursorAt 120).latch = none ∧ (cursorAt 120).cmd = none ∧ (cursorAt 120).moves = [] ∧
    (cursorAt 120).cursor.toNat + 72 ≤ (cursorAt 120).params.bufCap.toNat := by decide
theorem witness_DecodeWritesSampledBytes :
    (cursorAt 192).latch = none ∧ 232 + 24 ≤ (cursorAt 192).params.hmemSize ∧
    0 + 8 * 24 ≤ (cursorAt 192).cursor.toNat ∧ (cursorAt 192).params.hmemSize < 233 + 24 ∧
    (cursorAt 192).cursor.toNat < 1 + 8 * 24 := by decide
theorem witness_SampleReportsTheLevel :
    (cursorAt 11).latch = none ∧ 10 + 1 ≤ (cursorAt 11).cursor.toNat ∧ (cursorAt 11).cursor.toNat < 11 + 1 := by decide
theorem witness_EnumBitInfoReportsTheProbes :
    (cursorAt 187).latch = none ∧ 55 ≤ 55 ∧ 19 + 168 ≤ (cursorAt 187).cursor.toNat ∧ 55 < 56 ∧
    (cursorAt 187).cursor.toNat < 20 + 168 := by decide
theorem witness_ComputeMatchingBitsFindsTheFirstBreak :
    (cursorAt 187).latch = none ∧ 56 ≤ 56 ∧ 19 + 168 ≤ (cursorAt 187).cursor.toNat ∧ 56 < 57 ∧
    (cursorAt 187).cursor.toNat < 20 + 168 := by decide
theorem witness_UnexchangedBufferDecodesToWhatWasWritten :
    (uuidAtTop 0).latch = none ∧ (uuidAtTop 0).hmem.readAll 249 7 = some [0x10, 0, 0, 0, 0, 0, 0x80] ∧
    249 + 7 ≤ (uuidAtTop 0).params.hmemSize ∧ (uuidAtTop 0).cursor.toNat + 8 * 7 ≤ (uuidAtTop 0).params.bufCap.toNat ∧
    232 + 24 ≤ (uuidAtTop 0).params.hmemSize ∧ (uuidAtTop 0).cursor.toNat + 8 * 24 ≤ (uuidAtTop 0).params.bufCap.toNat ∧
    (uuidAtTop 16).cursor.toNat + 176 ≤ (uuidAtTop 16).params.bufCap.toNat ∧ 55 ≤ 55 := by decide
theorem witness_CrcCalcReportsTheCrc :
    (uuidAtTop 0).latch = none ∧ 249 + 7 ≤ (uuidAtTop 0).params.hmemSize ∧
    (uuidAtTop 0).hmem.readAll 249 7 = some [0x10, 0, 0, 0, 0, 0, 0x80] ∧ (uuidAtTop 0).params.hmemSize < 250 + 7 ∧
    (0 < 7 ∧ (uuidAtTop 0).hmem.read (248 + 0) = none) := by decide
theorem witness_CrcByteStepsTheAccumulator : State.reset.latch = none := by decide
theorem witness_CrcByteSequenceComputesTheCrc :
    State.reset.latch = none ∧ State.reset.cmd = none ∧ State.reset.moves = [] := by decide
theorem witness_CrcBitIsTheFeedbackShiftRegister : true = ((0x01 : Byte).getLsbD 0 ^^ false) := by decide
theorem witness_RomCheckComparesTheStoredCrc :
    (withHmem 248 [2, 0x1C, 0xB8, 1, 0, 0, 0, 0xA2]).hmem.readAll 248 7 = some [2, 0x1C, 0xB8, 1, 0, 0, 0] ∧
    (withHmem 248 [2, 0x1C, 0xB8, 1, 0, 0, 0, 0xA2]).hmem.read (248 + 7) = some 0xA2 ∧
    248 + 8 ≤ (withHmem 248 [2, 0x1C, 0xB8, 1, 0, 0, 0, 0xA2]).params.hmemSize ∧
    crc8 0x00 [2, 0x1C, 0xB8, 1, 0, 0, 0] = 0xA2 ∧ crc8 0x00 [2, 0x1C, 0xB8, 1, 0, 0, 0] ≠ 0xA3 ∧
    State.reset.params.hmemSize < 249 + 8 ∧ (0 < 8 ∧ State.reset.hmem.read (248 + 0) = none) := by decide
theorem witness_BitGetReadsTheBit :
    (uuidAtTop 0).latch = none ∧ 55 ≤ 55 ∧ 249 + 7 ≤ (uuidAtTop 0).params.hmemSize ∧
    (uuidAtTop 0).hmem.read (249 + 55 / 8) = some 0x80 ∧ 55 < 56 ∧ (uuidAtTop 0).params.hmemSize < 250 + 7 ∧
    State.reset.hmem.read (249 + 55 / 8) = none := by decide
theorem witness_BitSetWritesOneBit :
    (uuidAtTop 0).latch = none ∧ 55 ≤ 55 ∧ 249 + 7 ≤ (uuidAtTop 0).params.hmemSize ∧
    (uuidAtTop 0).hmem.read (249 + 55 / 8) = some 0x80 ∧ 55 < 56 ∧ (uuidAtTop 0).params.hmemSize < 250 + 7 ∧
    State.reset.hmem.read (249 + 55 / 8) = none := by decide
theorem witness_BitSetThenBitGetRoundTrips :
    (uuidAtTop 0).latch = none ∧ 55 ≤ 55 ∧ 249 + 7 ≤ (uuidAtTop 0).params.hmemSize ∧
    (uuidAtTop 0).hmem.readAll 249 7 = some [0x10, 0, 0, 0, 0, 0, 0x80] := by decide

/-- One used byte, padding to MIN_XFER = BUF_CAP would be legal, and a settled answer of one byte. -/
def answered : State := { withBuf 0 [0x7F] with busAnswers := [.received [0x0F]] }

theorem witness_ExecuteExchangesTheBuffer :
    answered.latch = none ∧ (1 = max answered.cursor.toNat answered.minXfer.toNat) ∧
    (answered.cursor.toNat < answered.minXfer.toNat → answered.minXfer.toNat ≤ answered.params.bufCap.toNat) ∧
    answered.pausedUntil.toNat ≤ answered.now.toNat ∧
    answered.exchange answered.padded.busRequest = .received [0x0F] ∧
    (({ answered with minXfer := 193 } : State).cursor.toNat < 193 ∧ answered.params.bufCap.toNat < 193) := by decide
/-- MIN_XFER = BUF_CAP is still no overflow, and NOW one tick short of PAUSED_UNTIL still holds. -/
theorem witness_ExecuteHoldsWhilePaused :
    ({ accepted 0x40 with pausedUntil := 1, minXfer := 192, moves := [.command 0x13] } : State).latch = none ∧
    (({ accepted 0x40 with pausedUntil := 1, minXfer := 192 } : State).cursor.toNat < 192 → 192 ≤ Params.default.bufCap.toNat) ∧
    ({ accepted 0x40 with pausedUntil := 1 } : State).now.toNat < (1#64).toNat ∧
    decodeWord 0x40 = .command .execute ∧
    ({ accepted 0x40 with pausedUntil := 1, moves := [.clock 1] } : State).moves = .clock 1 :: [] ∧
    ({ accepted 0x40 with pausedUntil := 1, moves := [.block] } : State).moves = .block :: [] ∧
    ({ accepted 0x40 with pausedUntil := 1, moves := [.reset] } : State).moves = .reset :: [] ∧
    ({ accepted 0x40 with pausedUntil := 1, moves := [.hostWrite 0 0] } : State).moves = .hostWrite 0 0 :: [] ∧
    (accepted 0x40).cmd = some 0x40 ∧
    (({ accepted 0x40 with pausedUntil := 1, minXfer := 193 } : State).cursor.toNat < (193#16).toNat ∧
      Params.default.bufCap.toNat < (193#16).toNat) := by decide
theorem witness_ExecuteTransportErrorIsLatched :
    ({ answered with busAnswers := [.transportError] } : State).latch = none ∧
    ({ answered with busAnswers := [.transportError] } : State).exchange
      ({ answered with busAnswers := [.transportError] } : State).padded.busRequest = .transportError ∧
    answered.pausedUntil.toNat ≤ answered.now.toNat ∧
    (answered.cursor.toNat < answered.minXfer.toNat → answered.minXfer.toNat ≤ answered.params.bufCap.toNat) := by decide
theorem witness_PauseExtendsThePause : State.reset.latch = none := by decide
theorem witness_PauseIsMonotone :
    (match exec (.pause 1000) State.reset with
      | .next t => t.pausedUntil == 1000
      | _ => false) = true ∧ State.reset.latch = none ∧ 500 < 1000 ∧
    (match step (accepted 0x0000000003E80041) with
      | .next t => t.pausedUntil == 1000
      | _ => false) = true ∧ (accepted 0x0000000003E80041).moves = [] := by decide
theorem witness_OnlyPauseEngagesThePullUp :
    (match step { accepted 0x41 with params := { Params.default with spuMode := .miso } } with
      | .next t => t.spuEngaged
      | _ => false) = true ∧
    (match step { answered with spuEngaged := true, cmd := some 0x40 } with
      | .next t => !t.spuEngaged
      | _ => false) = true ∧
    (match step { latched with spuEngaged := true, moves := [.reset] } with
      | .next t => !t.spuEngaged
      | _ => false) = true ∧ (accepted 0x41).spuEngaged = false := by decide
theorem witness_PullUpPinFollowsModeAndEngaged :
    Params.default.spuMode = .none ∧ ({ Params.default with spuMode := .directGpio } : Params).spuMode = .directGpio ∧
    ({ Params.default with spuMode := .pMosfet } : Params).spuMode = .pMosfet ∧
    ({ Params.default with spuMode := .miso } : Params).spuMode = .miso := by decide
theorem witness_RdregCopiesTheRegister : 0x0B < 0x0C ∧ State.reset.latch = none := by decide
theorem witness_StatusShowsItsFields :
    State.reset.latch = none ∧ latched.latch = some { code := .illegalCommand, op := 0 } := by decide
theorem witness_WrregWritesTheNamedRegister :
    State.reset.latch = none ∧ (2#48).toNat < 4 ∧ (2#48).getLsbD 0 = false ∧ (3#48).toNat < 4 ∧
    (3#48).getLsbD 0 = true ∧ State.reset.params.maxSpeed = .overdrive ∧ (1#48).toNat < 2 ∧
    (65535#48).toNat < 65536 ∧ (255#48).toNat < 256 := by decide
theorem witness_WrregFaultsOnBadRegisterOrValue :
    State.reset.latch = none ∧ (0x0B ≠ 0x04 ∧ 0x0B ≠ 0x06 ∧ 0x0B ≠ 0x07 ∧ 0x0B ≠ 0x0A) ∧ 4 ≤ (4#48).toNat ∧
    ((1#48).getLsbD 0 = true ∧ ({ Params.default with maxSpeed := .regular } : Params).maxSpeed = .regular) ∧
    2 ≤ (2#48).toNat ∧ 65536 ≤ (65536#48).toNat ∧ 256 ≤ (256#48).toNat := by decide
theorem witness_BusResetReportsPresence :
    ({ State.reset with busAnswers := [.received (List.replicate 9 0)] } : State).latch = none ∧
    ({ State.reset with busAnswers := [.received (List.replicate 9 0)] } : State).busAnswers.head? =
      some (.received (List.replicate 9 0)) ∧ 9 ≤ (List.replicate 9 (0 : Byte)).length ∧
    State.reset.cmd = none ∧ State.reset.moves = [] ∧ 11 ≤ State.reset.params.bufCap.toNat ∧
    State.reset.minXfer.toNat ≤ State.reset.params.bufCap.toNat ∧
    State.reset.pausedUntil.toNat ≤ State.reset.now.toNat := by decide
theorem witness_SecondExecuteRetransmitsTheAnswer :
    answered.latch = none ∧ answered.pausedUntil.toNat ≤ answered.now.toNat ∧
    (match answered.exchange answered.padded.busRequest with
      | .received rx => rx.length == answered.padded.cursor.toNat
      | .transportError => false) = true ∧
    (answered.cursor.toNat < answered.minXfer.toNat → answered.minXfer.toNat ≤ answered.params.bufCap.toNat) := by decide
theorem witness_DevReadReadsFromOffset91 :
    (uuidAtTop 0).latch = none ∧ (uuidAtTop 0).cmd = none ∧ (uuidAtTop 0).moves = [] ∧ 249 < 65536 ∧
    249 + 7 ≤ (uuidAtTop 0).params.hmemSize ∧ (uuidAtTop 0).hmem.readAll 249 7 = some [0x10, 0, 0, 0, 0, 0, 0x80] ∧
    11 + (10 + 12) * 8 ≤ (uuidAtTop 0).params.bufCap.toNat := by decide
theorem witness_OnlyDecodeBitSetAndHostWriteHmem :
    (match step { State.reset with moves := [.hostWrite 5 7] } with
      | .next t => t.hmem.read 5 == some 7
      | _ => false) = true ∧
    (match step { withBuf 0 (List.replicate 8 0x7F) with cmd := some 0x0001000500000020 } with
      | .next t => t.hmem.read 5 == some 0xFF
      | _ => false) = true ∧
    (match step { uuidAtTop 0 with cmd := some 0x0000000400F90039 } with
      | .next t => t.hmem.read 249 == some 0x00
      | _ => false) = true := by decide
theorem witness_OnlyTheClockMovesNow :
    (match step { State.reset with moves := [.clock 5] } with
      | .next t => t.now == 5
      | _ => false) = true := by decide
theorem witness_RstRestoresTheResetValues :
    ({ accepted 0x40 with pausedUntil := 9, moves := [.reset] } : State).moves = .reset :: [] := by decide
/-- The invariant's premises hold together: the power-on state meets them with the smallest legal parameters. -/
theorem witness_InvariantHoldsAtPowerOn :
    ({ Params.default with bufCap := 1, hmemSize := 8, effectiveHzRegular := 1, effectiveHzOverdrive := 1 } : Params).legal
      = true := by decide
/-- A state with a used byte, a command accepted and no fault meets the invariant, and its step goes on. -/
theorem witness_EveryStepKeepsTheInvariant :
    Inv { withBuf 0 [0x7F] with cmd := some 0x13 } ∧
    (match step { withBuf 0 [0x7F] with cmd := some 0x13 } with
      | .next t => t.cursor == 12
      | _ => false) = true := by
  refine ⟨?_, by decide⟩
  refine ⟨by decide, by decide, by decide, by decide, by decide, by decide, ?_, by decide, by decide, by decide,
    by decide, fun l h => absurd h (by simp [withBuf, State.reset, State.powerOn])⟩
  intro j hj
  have h1 : j = 0 := by
    have h2 : ({ withBuf 0 [0x7F] with cmd := some 0x13 } : State).cursor.toNat = 1 := by decide
    rw [h2] at hj
    omega
  subst h1
  decide
theorem witness_UnusedBufferBytesAreNeverObserved :
    ∀ j, j < (withBuf 0 [0x7F]).cursor.toNat → Memory.read [(0, 0x7F), (5, 0x00)] j = (withBuf 0 [0x7F]).buf.read j := by
  decide
theorem witness_SearchNeverExhaustsItsDepth : (55 ≤ 55 ∧ 56 - 55 ≤ 1) ∧ (0 ≤ 55 ∧ 56 - 0 ≤ 56) := by decide

end Sys2Proof.Tests
end

/-! SUPPORT. The scope statements (00_scope.md): which schedules give the BLOCK its move and what it does with the word
it has accepted (rules R8 and R67), and the power-on state (rules R9 and R39). -/

namespace Sys2Proof.Machine

/-! ### The BLOCK's move -/

theorem step_of_moves_nil {s : State} (hm : s.moves = []) : step s = blockStep s := by
  simp only [step, hm]

theorem step_of_moves_block {s : State} {ms : List Move} (hm : s.moves = .block :: ms) :
    step s = blockStep { s with moves := ms } := by
  simp only [step, hm]

/-- A word offered while another one is accepted waits, and the BLOCK moves (rule R20). -/
theorem step_of_moves_command_busy {s : State} {v w : Word} {ms : List Move} (hm : s.moves = .command v :: ms)
    (hc : s.cmd = some w) : step s = blockStep s := by
  simp only [step, hm, hc]

theorem blockStep_command {s : State} {w : Word} {i : Instr} (hc : s.cmd = some w) (hd : decodeWord w = .command i) :
    blockStep s = exec i s := by
  simp only [blockStep, hc, hd]

theorem blockStep_illegal {s : State} {w : Word} {why : Illegal} (hc : s.cmd = some w)
    (hd : decodeWord w = .illegal why) : blockStep s = illegalCommand w s := by
  simp only [blockStep, hc, hd]

theorem illegalCommand_ready {s : State} (h : s.latch = none) (w : Word) :
    illegalCommand w s = .next (s.enterFault .illegalCommand w) := by
  simp [illegalCommand_next, (not_faulted_iff s).2 h]

theorem illegalCommand_faulted {s : State} {l : FaultLatch} (h : s.latch = some l) (w : Word) :
    illegalCommand w s = .next s.complete := by
  simp [illegalCommand_next, (faulted_iff s).2 ⟨l, h⟩]

/-- Settles O6: under each of the three schedules the step is the BLOCK's, from a state with the same accepted word,
latch and fault_log, and the BLOCK's step is known for a command, an illegal word and a discard. -/
theorem stepRunsTheAcceptedCommand : Obligations.StepRunsTheAcceptedCommand := by
  intro s u w hc hsched
  have hturn : step s = blockStep u ∧ u.cmd = some w ∧ u.latch = s.latch ∧ u.faultLog = s.faultLog := by
    obtain ⟨hm, rfl⟩ | ⟨ms, hm, rfl⟩ | ⟨v, ms, hm, rfl⟩ := hsched
    · exact ⟨step_of_moves_nil hm, hc, rfl, rfl⟩
    · exact ⟨step_of_moves_block hm, hc, rfl, rfl⟩
    · exact ⟨step_of_moves_command_busy hm hc, hc, rfl, rfl⟩
  obtain ⟨hstep, hcu, hlatch, hlog⟩ := hturn
  rw [hstep, ← hlatch, ← hlog]
  refine ⟨fun i hd => blockStep_command hcu hd, fun why hd hl => ?_, fun why l hd hl => ?_⟩
  · rw [blockStep_illegal hcu hd, illegalCommand_ready hl, State.enterFault]
  · rw [blockStep_illegal hcu hd, illegalCommand_faulted hl, State.complete]

/-! ### The power-on state -/

/-- No fault is latched, the pull-up is released and no pause is pending. -/
theorem powerOn_statusWord (p : Params) : (State.powerOn p).statusWord = 0 := by
  simp [State.statusWord, State.pausePending, FaultLatch.statusBits, State.powerOn]

theorem default_params_legal : Params.default.legal = true := by decide

/-- Settles O55: each value is a field of the power-on state or of the default parameters; STATUS is computed. -/
theorem resetStateHasTheSpecValues : Obligations.ResetStateHasTheSpecValues :=
  ⟨rfl, rfl, powerOn_statusWord _, rfl, rfl, rfl, rfl, rfl, rfl, rfl, rfl, rfl, rfl, rfl⟩

/-- Both memories are empty, CURSOR is 0, no word is accepted and no fault is latched, so most clauses ask nothing of
the parameters but that they are legal. -/
theorem inv_powerOn {p : Params} (hp : p.legal = true) : Inv (State.powerOn p) where
  params := hp
  buf_wf := rfl
  hmem_wf := rfl
  buf_below := rfl
  hmem_below := rfl
  cursor_le := Nat.zero_le _
  used_written _ hj := absurd hj (Nat.not_lt_zero _)
  clock_follows := ⟨rfl, rfl⟩
  speed_supported _ := rfl
  engaged_needs_pin _ := rfl
  busy_not_done _ := rfl
  latch_logged _ hl := nomatch hl

/-- Settles O56: the reset state is the power-on state of the default parameters, which are legal. -/
theorem invariantHoldsAtPowerOn : Obligations.InvariantHoldsAtPowerOn :=
  ⟨inv_powerOn default_params_legal, fun _ => inv_powerOn⟩

end Sys2Proof.Machine

/-! SUPPORT. What a command, the BLOCK and a step can do when they answer a next state: one inversion lemma each, from
which an invariant of the machine follows by a case split on what was written (00_scope.md rule R8). -/

namespace Sys2Proof.Machine

/-! ### What a command can do -/

/-- What the pseudocode of a command has written when it runs to its end, before CMD_DONE rises. EXECUTE, which ends in
its own way, is not among them. -/
inductive Ran (s : State) : Instr → State → Prop where
  | clear : Ran s .clear { s with cursor := 0 }
  /-- an ADD command, with room for its bytes (rule R120) -/
  | append (i : Instr) {k : Nat} {bs : List Byte} (ret : Nat) (hlen : bs.length = k)
      (room : s.cursor.toNat + k ≤ s.params.bufCap.toNat) : Ran s i (s.appendBytes k bs ret)
  /-- a command that only answers in RESULT -/
  | report (i : Instr) (v : Nat) : Ran s i (s.setResult v)
  | decode (o : Nat) {a n : Nat} {d : List Byte} (hlen : d.length = n) (hmem : a + n ≤ s.params.hmemSize) :
      Ran s (.decode o a n) { s with hmem := s.hmem.writeAll a d }
  | bitSet {a k : Nat} (v : Bool) (b : Byte) (hk : k ≤ 55) (hmem : a + 7 ≤ s.params.hmemSize) :
      Ran s (.bitSet a k v) { s with hmem := s.hmem.write (a + k / 8) b }
  | crcByte (b : Byte) :
      Ran s (.crcByte b) ({ s with crcAcc := crc8 s.crcAcc [b] }.setResult (crc8 s.crcAcc [b]).toNat)
  | pause (t : Nat) {u : Nat} (hu : u = max s.pausedUntil.toNat (sat64 (s.now.toNat + t))) :
      Ran s (.pause t)
        ({ s with pausedUntil := BitVec.ofNat 64 u, spuEngaged := s.hasStrongPullUp || s.spuEngaged }.setResult u)
  | speed (r : Nat) (v : BitVec 48) {c : SpeedClass} (hc : s.params.maxSpeed = .regular → c = .regular) :
      Ran s (.wrreg r v) (s.selectSpeed c)
  | polarity (r : Nat) (v : BitVec 48) (b : Bool) : Ran s (.wrreg r v) { s with invertTx := b }
  | minXfer (r : Nat) (v : BitVec 48) (n : BitVec 16) : Ran s (.wrreg r v) { s with minXfer := n }
  | crcAcc (r : Nat) (v : BitVec 48) (acc : Byte) : Ran s (.wrreg r v) { s with crcAcc := acc }
  | faultAck : Ran s .faultAck s.acknowledge

/-- The padding EXECUTE needs fits in BUF (rule R181). -/
def State.PaddingFits (s : State) : Prop :=
  s.cursor.toNat < s.minXfer.toNat → s.minXfer.toNat ≤ s.params.bufCap.toNat

/-- How a command's step ends when it goes on. -/
inductive Ends (s : State) : Instr → State → Prop where
  /-- dropped under a latched fault (rule R223) -/
  | discarded (i : Instr) (h : s.faulted = true) : Ends s i s.complete
  | ran {i : Instr} {u : State} (h : Ran s i u) : Ends s i u.complete
  | raised (i : Instr) (c : FaultCode) (h : s.latch = none) : Ends s i (s.enterFault c (encode i))
  /-- EXECUTE waits for the pause to elapse (rule R183) -/
  | held (h : s.latch = none) (hp : s.pausePending = true) : Ends s .execute s
  /-- EXECUTE exchanges (rule R181) -/
  | exchanged (h : s.latch = none) (hp : s.pausePending = false) (hfit : s.PaddingFits) :
      Ends s .execute s.padded.transfer

/-- The pseudocode of a command other than EXECUTE ended in one of the ways of `Ran`, or in a fault. -/
def Effect.RanFrom (s : State) (i : Instr) : Effect → Prop
  | .done u => Ran s i u
  | .raise _ | .unwritten => True
  | .hold | .settled _ => False

theorem Effect.ranFrom_done {s u : State} {i : Instr} (h : Ran s i u) : (Effect.done u).RanFrom s i := h
theorem Effect.ranFrom_raise (s : State) (i : Instr) (c : FaultCode) : (Effect.raise c).RanFrom s i := trivial
theorem Effect.ranFrom_unwritten (s : State) (i : Instr) : Effect.unwritten.RanFrom s i := trivial

/-- A guard of the pseudocode keeps the property of what follows it. -/
theorem Effect.ranFrom_guard {s : State} {i : Instr} {p : Prop} [Decidable p] {c : FaultCode} {e : Effect}
    (h : ¬p → e.RanFrom s i) : (if p then Effect.raise c else e).RanFrom s i := by
  split
  · exact Effect.ranFrom_raise s i c
  · next hp => exact h hp

theorem append_ranFrom (s : State) (i : Instr) {k : Nat} {bs : List Byte} (hlen : bs.length = k) (ret : Nat) :
    (append s k bs ret).RanFrom s i := by
  obtain ⟨_, h⟩ | ⟨room, h⟩ := append_cases s k bs ret
  · rw [h]; exact Effect.ranFrom_raise ..
  · rw [h]; exact .append i ret hlen room

theorem ends_of_runCommand {i : Instr} {s t : State} {e : Effect} (h : runCommand i s e = .next t)
    (he : e.RanFrom s i) : Ends s i t := by
  obtain ⟨hf, rfl⟩ | ⟨hf, ⟨u, rfl, rfl⟩ | ⟨c, rfl, rfl⟩ | ⟨rfl, -⟩ | rfl⟩ := runCommand_next h
  · exact .discarded i hf
  · exact .ran he
  · exact .raised i c ((not_faulted_iff s).1 hf)
  · exact he.elim
  · exact he.elim

theorem hmemInRange_guard_iff (s : State) (a n : Nat) :
    ¬(!s.hmemInRange a n) = true ↔ a + n ≤ s.params.hmemSize := by
  simp [State.hmemInRange]

theorem bufInRange_guard_iff (s : State) (o k : Nat) : ¬(!s.bufInRange o k) = true ↔ o + k ≤ s.cursor.toNat := by
  simp [State.bufInRange]

theorem decodeBytes_length (s : State) (o n : Nat) : (s.decodeBytes o n).length = n := by
  simp [State.decodeBytes]

theorem memRead_length {s : State} {a n : Nat} {d : List Byte} (h : s.memRead a n = some d) : d.length = n :=
  Memory.readAll_length h

/-- Only the four writable registers take a value, each through its own field (rule R196). -/
theorem writeReg_ranFrom (s : State) (r : Nat) (reg : RegName) (v : BitVec 48) :
    (writeReg reg v s).RanFrom s (.wrreg r v) := by
  cases reg with
  | speed =>
    refine Effect.ranFrom_guard fun _ => Effect.ranFrom_guard fun hmax => .speed r v fun hreg => ?_
    have hbit : v.getLsbD 0 = false := by simpa [hreg] using hmax
    rw [hbit]; rfl
  | polarity => exact Effect.ranFrom_guard fun _ => .polarity r v _
  | minXfer => exact Effect.ranFrom_guard fun _ => .minXfer r v _
  | crcAcc => exact Effect.ranFrom_guard fun _ => .crcAcc r v _
  | _ => exact Effect.ranFrom_raise ..

theorem execExecute_next {s t : State} (h : execExecute s = .next t) : Ends s .execute t := by
  obtain ⟨hf, rfl⟩ | ⟨hf, hend⟩ := runCommand_next h
  · exact .discarded _ hf
  have hl := (not_faulted_iff s).1 hf
  split at hend
  · obtain ⟨u, hu, -⟩ | ⟨c, -, rfl⟩ | ⟨hu, -⟩ | hu := hend
    · cases hu
    · exact .raised _ c hl
    · cases hu
    · cases hu
  next hcap =>
  have hfit : s.PaddingFits := fun hlt => by simp only [hlt, true_and] at hcap; omega
  cases hp : s.pausePending with
  | true =>
    simp only [hp, if_true, reduceCtorEq, false_and, exists_false, false_or, or_false, true_and] at hend
    obtain rfl := hend
    exact .held hl hp
  | false =>
    simp only [hp, Bool.false_eq_true, if_false, reduceCtorEq, false_and, exists_false, false_or,
      Effect.settled.injEq] at hend
    obtain rfl := hend
    exact .exchanged hl hp hfit

theorem execRdreg_next {r : Nat} {s t : State} (h : execRdreg r s = .next t) : Ends s (.rdreg r) t := by
  unfold execRdreg at h
  split at h
  · exact ends_of_runCommand h (Effect.ranFrom_raise ..)
  · cases h; exact .ran (.report _ _)

/-- Everything a command can do when it answers a next state. -/
theorem exec_next {i : Instr} {s t : State} (h : exec i s = .next t) : Ends s i t := by
  cases i with
  | clear => exact ends_of_runCommand h .clear
  | addPattern b n => exact ends_of_runCommand h (append_ranFrom s _ List.length_replicate _)
  | addPatternT b t => exact ends_of_runCommand h (append_ranFrom s _ List.length_replicate _)
  | addReset => exact ends_of_runCommand h (append_ranFrom s _ resetPattern_length _)
  | addWrite a n =>
    refine ends_of_runCommand h (Effect.ranFrom_guard fun _ => Effect.ranFrom_guard fun _ => ?_)
    split
    · exact Effect.ranFrom_unwritten ..
    · next d hd => exact append_ranFrom s _ (by rw [encBytes_length, memRead_length hd]) _
  | addRead n => exact ends_of_runCommand h (append_ranFrom s _ List.length_replicate _)
  | addCommand b => exact ends_of_runCommand h (append_ranFrom s _ (encByte_length b) _)
  | addMatchRom u =>
    refine ends_of_runCommand h (Effect.ranFrom_guard fun _ => Effect.ranFrom_guard fun _ => ?_)
    split
    · exact Effect.ranFrom_unwritten ..
    · next id hid => exact append_ranFrom s _ (by simp [memRead_length hid]) _
  | addEnumRom u =>
    refine ends_of_runCommand h (Effect.ranFrom_guard fun _ => Effect.ranFrom_guard fun _ => ?_)
    split
    · exact Effect.ranFrom_unwritten ..
    · next id _ => exact append_ranFrom s _ (by simp) _
  | decode o a n =>
    exact ends_of_runCommand h <| Effect.ranFrom_guard fun hmem => Effect.ranFrom_guard fun _ =>
      .decode o (decodeBytes_length s o n) ((hmemInRange_guard_iff s a n).1 hmem)
  | sample o => exact ends_of_runCommand h <| Effect.ranFrom_guard fun _ => .report _ _
  | enumBitInfo o k =>
    exact ends_of_runCommand h <| Effect.ranFrom_guard fun _ => Effect.ranFrom_guard fun _ => .report _ _
  | computeMatchingBits o k f =>
    exact ends_of_runCommand h <| Effect.ranFrom_guard fun _ => Effect.ranFrom_guard fun _ => .report _ _
  | crcCalc a n =>
    refine ends_of_runCommand h (Effect.ranFrom_guard fun _ => ?_)
    split
    · exact Effect.ranFrom_unwritten ..
    · exact .report _ _
  | crcByte b => exact ends_of_runCommand h (.crcByte b)
  | romCheck a =>
    refine ends_of_runCommand h (Effect.ranFrom_guard fun _ => ?_)
    split
    · exact Effect.ranFrom_unwritten ..
    · exact Effect.ranFrom_guard fun _ => .report _ _
  | bitGet a k =>
    refine ends_of_runCommand h (Effect.ranFrom_guard fun _ => Effect.ranFrom_guard fun _ => ?_)
    split
    · exact Effect.ranFrom_unwritten ..
    · exact .report _ _
  | bitSet a k v =>
    refine ends_of_runCommand h (Effect.ranFrom_guard fun hk => Effect.ranFrom_guard fun hmem => ?_)
    split
    · exact Effect.ranFrom_unwritten ..
    · exact .bitSet v _ (Nat.not_lt.1 hk) ((hmemInRange_guard_iff s a 7).1 hmem)
  | execute => exact execExecute_next h
  | pause t => exact ends_of_runCommand h (.pause t rfl)
  | rdreg r => exact execRdreg_next h
  | wrreg r v =>
    refine ends_of_runCommand h ?_
    split
    · exact Effect.ranFrom_raise ..
    · next reg _ => exact writeReg_ranFrom s r reg v
  | faultAck => cases h; exact .ran .faultAck

/-! ### EXECUTE's exchange -/

theorem padded_cursor_toNat (s : State) : s.padded.cursor.toNat = max s.cursor.toNat s.minXfer.toNat := by
  rw [padded_eq]
  dsimp only
  split <;> omega

theorem padded_buf (s : State) :
    s.padded.buf = s.buf.writeAll s.cursor.toNat (List.replicate (s.minXfer.toNat - s.cursor.toNat) 0xFF) := by
  rw [padded_eq]

@[simp] theorem padded_now (s : State) : s.padded.now = s.now := by rw [padded_eq]

@[simp] theorem padded_minXfer (s : State) : s.padded.minXfer = s.minXfer := by rw [padded_eq]

@[simp] theorem padded_invertTx (s : State) : s.padded.invertTx = s.invertTx := by rw [padded_eq]

@[simp] theorem padded_exchange (s : State) (r : BusRequest) : s.padded.exchange r = s.exchange r := by
  rw [padded_eq]; rfl

theorem received_length {s : State} {r : BusRequest} {rx : List Byte} (h : s.exchange r = .received rx) :
    rx.length = r.tx.length := by
  obtain he | ⟨rx', he, hlen⟩ := exchange_cases s r
  · cases he.symm.trans h
  · cases he.symm.trans h; exact hlen

@[simp] theorem txBytes_length (s : State) : s.txBytes.length = s.cursor.toNat := by simp [State.txBytes]

@[simp] theorem garbage_length (k : Nat) (log : List BusRecord) (r : BusRequest) : (garbage k log r).length = k := by
  simp [garbage]

/-- What the exchange has done to the state before any byte is stored: the pull-up is released (rule R182) and the
exchange is in the BUS agent's history. -/
def State.sent (s : State) : State := s.disengaged.recordExchange s.busRequest

/-- An answered exchange stores the bytes as received (rule R181). -/
theorem transfer_received {s : State} {rx : List Byte} (h : s.exchange s.busRequest = .received rx) :
    s.transfer =
      ({ s.sent with buf := s.buf.writeAll 0 rx }.setResult s.cursor.toNat).complete := by
  simp only [State.transfer, h]; rfl

/-- A failed exchange leaves arbitrary bytes and TRANSPORT_ERROR (rule R184). -/
theorem transfer_transportError {s : State} (h : s.exchange s.busRequest = .transportError) :
    s.transfer =
      { s.sent with buf := s.buf.writeAll 0 (garbage s.cursor.toNat s.busLog s.busRequest) }.enterFault
        .transportError (encode .execute) := by
  simp only [State.transfer, h]; rfl

@[simp] theorem transfer_now (s : State) : s.transfer.now = s.now := by
  obtain he | ⟨rx, he, -⟩ := exchange_cases s s.busRequest
  · rw [transfer_transportError he]; rfl
  · rw [transfer_received he]; rfl

/-! ### What a step can do -/

/-- The BLOCK waits with no word accepted, or runs the accepted one. -/
theorem blockStep_next {s t : State} (h : blockStep s = .next t) :
    (s.cmd = none ∧ t = s) ∨
    ∃ w, s.cmd = some w ∧
      ((∃ i, decodeWord w = .command i ∧ Ends s i t) ∨
        ((∃ why, decodeWord w = .illegal why) ∧
          t = if s.faulted then s.complete else s.enterFault .illegalCommand w)) := by
  cases hc : s.cmd with
  | none =>
    simp only [blockStep, hc, Host.Outcome.next.injEq] at h
    exact .inl ⟨rfl, h.symm⟩
  | some w =>
    refine .inr ⟨w, rfl, ?_⟩
    cases hd : decodeWord w with
    | command i =>
      rw [blockStep_command hc hd] at h
      exact .inl ⟨i, rfl, exec_next h⟩
    | illegal why =>
      rw [blockStep_illegal hc hd, illegalCommand_next, Host.Outcome.next.injEq] at h
      exact .inr ⟨⟨why, rfl⟩, h.symm⟩

/-- The agent that took the step and what its move did (rule R8). -/
inductive Moved (s : State) : State → Prop where
  /-- BLOCK; a word that is offered while it is busy stays in the schedule -/
  | block {ms : List Move} {t : State} (hms : s.moves = ms ∨ s.moves = .block :: ms)
      (h : blockStep { s with moves := ms } = .next t) : Moved s t
  | clock {u : BitVec 64} {ms : List Move} (hm : s.moves = .clock u :: ms) :
      Moved s ({ s with moves := ms }.advanceClock u)
  | hostWrite {a : BitVec 16} {b : Byte} {ms : List Move} (hm : s.moves = .hostWrite a b :: ms)
      (hidle : s.cmd = none) (hmem : a.toNat < s.params.hmemSize) :
      Moved s { s with moves := ms, hmem := s.hmem.write a.toNat b }
  | reset {ms : List Move} (hm : s.moves = .reset :: ms) : Moved s { s with moves := ms }.rst
  | accept {w : Word} {ms : List Move} (hm : s.moves = .command w :: ms) (hidle : s.cmd = none) :
      Moved s ({ s with moves := ms }.accept w)

/-- Everything a step can do when it goes on. -/
theorem step_next {s t : State} (h : step s = .next t) : Moved s t := by
  unfold step at h
  split at h
  · next hm => exact .block (.inl rfl) h
  · next ms hm => exact .block (.inr hm) h
  · next u ms hm => cases h; exact .clock hm
  · next a b ms hm =>
    obtain ⟨hidle, hmem, rfl⟩ := hostStore_next h
    exact .hostWrite hm hidle hmem
  · next ms hm => cases h; exact .reset hm
  · next w ms hm =>
    split at h
    · next hidle => cases h; exact .accept hm hidle
    · exact .block (.inl rfl) h

/-! ### Every step keeps the invariant -/

section
variable {s : State}

theorem Inv.complete (h : Inv s) : Inv s.complete :=
  { h with busy_not_done := nofun }

theorem Inv.acknowledge (h : Inv s) : Inv s.acknowledge :=
  { h with latch_logged := nofun }

theorem Inv.setResult (h : Inv s) (v : Nat) : Inv (s.setResult v) := { h with }

theorem Inv.setMoves (h : Inv s) (ms : List Move) : Inv { s with moves := ms } := { h with }

theorem Inv.advanceClock (h : Inv s) (t : BitVec 64) : Inv (s.advanceClock t) := { h with }

theorem Inv.accept (h : Inv s) (w : Word) : Inv (s.accept w) :=
  { h with busy_not_done _ := rfl }

theorem Inv.enterFault (h : Inv s) (c : FaultCode) (w : Word) : Inv (s.enterFault c w) :=
  { h with
    busy_not_done := nofun
    latch_logged l hl := by
      obtain rfl := Option.some.inj hl
      exact ⟨w, List.getLast?_concat .., rfl⟩ }

theorem Inv.disengaged (h : Inv s) : Inv s.disengaged :=
  { h with engaged_needs_pin _ := rfl }

theorem Inv.recordExchange (h : Inv s) (r : BusRequest) : Inv (s.recordExchange r) := { h with }

theorem Inv.selectSpeed (h : Inv s) {c : SpeedClass} (hc : s.params.maxSpeed = .regular → c = .regular) :
    Inv (s.selectSpeed c) :=
  { h with
    clock_follows := ⟨rfl, rfl⟩
    speed_supported := hc }

theorem Inv.writeHmem (h : Inv s) {a : Nat} {d : List Byte} (ha : a + d.length ≤ s.params.hmemSize) :
    Inv { s with hmem := s.hmem.writeAll a d } :=
  { h with
    hmem_wf := Memory.writeAll_wf _ _ _ h.hmem_wf
    hmem_below := Memory.writeAll_below _ _ _ _ h.hmem_below ha }

/-- A write into BUF that starts in the used part leaves no gap, so CURSOR may move up to the end of the write. -/
theorem Inv.writeBuf (h : Inv s) {a : Nat} {bs : List Byte} {c : BitVec 16} (hstart : a ≤ s.cursor.toNat)
    (hroom : a + bs.length ≤ s.params.bufCap.toNat) (hc : c.toNat ≤ max s.cursor.toNat (a + bs.length)) :
    Inv { s with buf := s.buf.writeAll a bs, cursor := c } :=
  { h with
    buf_wf := Memory.writeAll_wf _ _ _ h.buf_wf
    buf_below := Memory.writeAll_below _ _ _ _ h.buf_below hroom
    cursor_le := hc.trans (max_le h.cursor_le hroom)
    used_written j hj := by
      replace hj : j < c.toNat := hj
      rw [Memory.read_writeAll]
      split
      · next hin => rw [List.getElem?_eq_getElem (by omega)]; rfl
      · exact h.used_written j (by omega) }

theorem Inv.rst (h : Inv s) : Inv s.rst :=
  { inv_powerOn h.params with
    hmem_wf := h.hmem_wf
    hmem_below := h.hmem_below
    latch_logged := nofun }

theorem Inv.appendBytes (h : Inv s) {k : Nat} {bs : List Byte} (hlen : bs.length = k)
    (room : s.cursor.toNat + k ≤ s.params.bufCap.toNat) (ret : Nat) : Inv (s.appendBytes k bs ret) := by
  subst hlen
  have hc := appendBytes_cursor_toNat room bs ret
  exact (h.writeBuf le_rfl room (hc.le.trans (Nat.le_max_right ..))).setResult ret

theorem Inv.ran (h : Inv s) {i : Instr} {t : State} (ht : Ran s i t) : Inv t := by
  cases ht with
  | clear => exact { h with cursor_le := Nat.zero_le _, used_written := nofun }
  | append _ ret hlen room => exact h.appendBytes hlen room ret
  | report _ v => exact h.setResult v
  | decode o hlen hmem => subst hlen; exact h.writeHmem hmem
  | bitSet v b hk hmem => exact h.writeHmem (d := [b]) (by simp only [List.length_singleton]; omega)
  | crcByte b => exact { h with }
  | pause t hu =>
    refine { h with engaged_needs_pin := fun (hpin : s.params.spuMode = .none) => ?_ }
    simp [State.hasStrongPullUp, hpin, h.engaged_needs_pin hpin]
  | speed r v hc => exact h.selectSpeed hc
  | polarity | minXfer | crcAcc => exact { h with }
  | faultAck => exact h.acknowledge

/-- Padding goes up to MIN_XFER, which fits, or writes nothing. -/
theorem Inv.padded (h : Inv s) (hfit : s.PaddingFits) : Inv s.padded := by
  rw [padded_eq]
  have hcur := h.cursor_le
  unfold State.PaddingFits at hfit
  refine h.writeBuf le_rfl (by rw [List.length_replicate]; omega) ?_
  rw [List.length_replicate]
  split <;> omega

/-- The exchange writes exactly the used part of BUF, whatever the BUS answers. -/
theorem Inv.transfer (h : Inv s) : Inv s.transfer := by
  have hsent : Inv s.sent := h.disengaged.recordExchange _
  have hused {bs : List Byte} (hlen : bs.length = s.cursor.toNat) :=
    hsent.writeBuf (a := 0) (bs := bs) (c := s.cursor) (Nat.zero_le _) (by rw [hlen, Nat.zero_add]; exact h.cursor_le)
      (Nat.le_max_left ..)
  obtain he | ⟨rx, he, hlen⟩ := exchange_cases s s.busRequest
  · rw [transfer_transportError he]
    exact (hused (garbage_length ..)).enterFault ..
  · rw [transfer_received he]
    exact ((hused (hlen.trans (txBytes_length s))).setResult _).complete

theorem Inv.ends (h : Inv s) {i : Instr} {t : State} (ht : Ends s i t) : Inv t := by
  cases ht with
  | discarded => exact h.complete
  | ran hran => exact (h.ran hran).complete
  | raised => exact h.enterFault ..
  | held => exact h
  | exchanged _ _ hfit => exact (h.padded hfit).transfer

theorem Inv.blockStep (h : Inv s) {t : State} (ht : blockStep s = .next t) : Inv t := by
  obtain ⟨-, rfl⟩ | ⟨w, -, ⟨i, -, hi⟩ | ⟨-, rfl⟩⟩ := blockStep_next ht
  · exact h
  · exact h.ends hi
  · split
    · exact h.complete
    · exact h.enterFault ..

end

/-- Settles O57: each agent's move (`step_next`) and each way a command can end (`exec_next`) keeps the invariant. -/
theorem everyStepKeepsTheInvariant : Obligations.EveryStepKeepsTheInvariant := by
  intro s t h hstep
  cases step_next hstep with
  | block _ ht => exact (h.setMoves _).blockStep ht
  | clock => exact (h.setMoves _).advanceClock _
  | hostWrite _ _ hmem => exact (h.writeHmem (d := [_]) hmem).setMoves _
  | reset => exact (h.setMoves _).rst
  | accept => exact (h.setMoves _).accept _

end Sys2Proof.Machine

/-! SUPPORT. NOW under every step (10_state.md rule R35), and that no command observes BUF at or above CURSOR (rule
R25). -/

namespace Sys2Proof.Machine

/-! ### Only the CLOCK moves NOW -/

theorem Ran.now_eq {s t : State} {i : Instr} (h : Ran s i t) : t.now = s.now := by cases h <;> rfl

theorem Ends.now_eq {s t : State} {i : Instr} (h : Ends s i t) : t.now = s.now := by
  cases h with
  | ran hran => exact hran.now_eq
  | exchanged => rw [transfer_now, padded_now]
  | discarded | raised | held => rfl

theorem blockStep_now {s t : State} (h : blockStep s = .next t) : t.now = s.now := by
  obtain ⟨-, rfl⟩ | ⟨w, -, ⟨i, -, hi⟩ | ⟨-, rfl⟩⟩ := blockStep_next h
  · rfl
  · exact hi.now_eq
  · split <;> rfl

/-- Settles O53: every move but the CLOCK's leaves NOW, and the CLOCK's leaves it or sets a later time. -/
theorem onlyTheClockMovesNow : Obligations.OnlyTheClockMovesNow := by
  intro s t hstep
  have of_eq {t : State} (h : t.now = s.now) :
      s.now.toNat ≤ t.now.toNat ∧ (t.now ≠ s.now → ∃ u ms, s.moves = .clock u :: ms ∧ t.now = u) :=
    ⟨h ▸ le_rfl, fun hne => absurd h hne⟩
  cases step_next hstep with
  | block _ ht =>
    have hnow := blockStep_now ht
    exact of_eq hnow
  | hostWrite | reset | accept => exact of_eq rfl
  | clock hm =>
    rw [State.advanceClock_now]
    split
    · next hlt => exact ⟨hlt.le, fun _ => ⟨_, _, hm, rfl⟩⟩
    · exact of_eq (t := s) rfl

/-! ### BUF at or above CURSOR is never observed -/

/-- The state with another memory as its BUF. -/
def State.withBuf (s : State) (m : Memory) : State := { s with buf := m }

/-- `m` agrees with BUF on the used bytes. -/
def State.SameUsed (s : State) (m : Memory) : Prop := ∀ j, j < s.cursor.toNat → m.read j = s.buf.read j

/-- The states differ only in BUF bytes at or above CURSOR. -/
def State.Alike (s s' : State) : Prop := ∃ m, s' = s.withBuf m ∧ s.SameUsed m

/-- Pseudocode that ends in the same way, in states that are alike. -/
inductive Effect.Alike : Effect → Effect → Prop where
  | done {t t' : State} (h : t.Alike t') : Alike (.done t) (.done t')
  | raise (c : FaultCode) : Alike (.raise c) (.raise c)
  | hold : Alike .hold .hold
  | unwritten : Alike .unwritten .unwritten
  | settled {t t' : State} (h : t.Alike t') : Alike (.settled t) (.settled t')

/-- Steps that go on to states that are alike, or end the run for the same reason. -/
inductive RunAlike : Host.Outcome State Fault Refusal → Host.Outcome State Fault Refusal → Prop where
  | next {t t' : State} (h : t.Alike t') : RunAlike (.next t) (.next t')
  | fault (f : Fault) : RunAlike (.fault f) (.fault f)

theorem RunAlike.cases {o o' : Host.Outcome State Fault Refusal} (h : RunAlike o o') :
    (∃ t t', o = .next t ∧ o' = .next t' ∧ t.Alike t') ∨ ∃ f, o = .fault f ∧ o' = .fault f := by
  cases h with
  | next h => exact .inl ⟨_, _, rfl, rfl, h⟩
  | fault f => exact .inr ⟨f, rfl, rfl⟩

@[simp] theorem withBuf_memRead (s : State) (m : Memory) (a n : Nat) : (s.withBuf m).memRead a n = s.memRead a n := rfl

@[simp] theorem withBuf_cursor (s : State) (m : Memory) : (s.withBuf m).cursor = s.cursor := rfl

@[simp] theorem withBuf_minXfer (s : State) (m : Memory) : (s.withBuf m).minXfer = s.minXfer := rfl

@[simp] theorem withBuf_hmem (s : State) (m : Memory) : (s.withBuf m).hmem = s.hmem := rfl

section
variable {s : State} {m : Memory}

theorem Effect.Alike.guard {p : Prop} [Decidable p] {c : FaultCode} {e e' : Effect} (h : ¬p → e.Alike e') :
    (if p then Effect.raise c else e).Alike (if p then Effect.raise c else e') := by
  split
  · exact .raise c
  · next hp => exact h hp

theorem State.SameUsed.runCommand (h : s.SameUsed m) {i : Instr} {e e' : Effect} (he : e.Alike e') :
    RunAlike (runCommand i s e) (runCommand i (s.withBuf m) e') := by
  cases hf : s.faulted with
  | true =>
    rw [runCommand_faulted hf, runCommand_faulted (s := s.withBuf m) hf]
    exact .next ⟨m, rfl, h⟩
  | false =>
    rw [runCommand_ready hf, runCommand_ready (s := s.withBuf m) hf]
    cases he with
    | done ht => obtain ⟨m', rfl, h'⟩ := ht; exact .next ⟨m', rfl, h'⟩
    | raise c => exact .next ⟨m, rfl, h⟩
    | hold => exact .next ⟨m, rfl, h⟩
    | unwritten => exact .fault _
    | settled ht => exact .next ht

/-- Writing the same bytes over both memories makes them agree there too. -/
theorem State.SameUsed.read_writeAll (h : s.SameUsed m) {a : Nat} {bs : List Byte} {j : Nat}
    (hj : j < s.cursor.toNat ∨ a ≤ j ∧ j < a + bs.length) :
    (m.writeAll a bs).read j = (s.buf.writeAll a bs).read j := by
  rw [Memory.read_writeAll, Memory.read_writeAll]
  split
  · rfl
  · next hout => exact h j (hj.resolve_right hout)

theorem State.SameUsed.append (h : s.SameUsed m) {k : Nat} {bs : List Byte} (hlen : bs.length = k) (ret : Nat) :
    (append s k bs ret).Alike (append (s.withBuf m) k bs ret) := by
  refine Effect.Alike.guard fun _ => .done ⟨m.writeAll s.cursor.toNat bs, rfl, fun j hj => h.read_writeAll ?_⟩
  rw [State.appendBytes_cursor, BitVec.toNat_ofNat] at hj
  omega

theorem State.SameUsed.bufByte (h : s.SameUsed m) {j : Nat} (hj : j < s.cursor.toNat) :
    (s.withBuf m).bufByte j = s.bufByte j :=
  congrArg (Option.getD · _) (h j hj)

theorem State.SameUsed.sampleAt (h : s.SameUsed m) {j : Nat} (hj : j < s.cursor.toNat) :
    (s.withBuf m).sampleAt j = s.sampleAt j :=
  congrArg sample (h.bufByte hj)

theorem byteOfBits_congr {f g : Nat → Bool} (h : ∀ j, j < 8 → f j = g j) : byteOfBits f = byteOfBits g :=
  List.foldl_ext _ _ _ fun _ j hj => by rw [h j (List.mem_range.1 hj)]

theorem State.SameUsed.decodeBytes (h : s.SameUsed m) {o n : Nat} (hr : o + 8 * n ≤ s.cursor.toNat) :
    (s.withBuf m).decodeBytes o n = s.decodeBytes o n :=
  List.map_congr_left fun k hk => byteOfBits_congr fun j hj => h.sampleAt (by have := List.mem_range.1 hk; omega)

/-- The three slots of bit `k` lie in the 168 bytes of the enum region (rule R154). -/
theorem State.SameUsed.probes (h : s.SameUsed m) {o k : Nat} (hk : k < 56) (hr : o + 168 ≤ s.cursor.toNat) :
    (s.withBuf m).hasZero o k = s.hasZero o k ∧ (s.withBuf m).hasOne o k = s.hasOne o k ∧
      (s.withBuf m).dirBit o k = s.dirBit o k :=
  ⟨congrArg (!·) (h.sampleAt (by omega)), congrArg (!·) (h.sampleAt (by omega)), h.sampleAt (by omega)⟩

theorem State.SameUsed.pathBreaks (h : s.SameUsed m) {o k : Nat} (hk : k < 56) (hr : o + 168 ≤ s.cursor.toNat)
    (f : Bool) : (s.withBuf m).pathBreaks o f k = s.pathBreaks o f k := by
  obtain ⟨hz, ho, hd⟩ := h.probes hk hr
  simp only [State.pathBreaks, hz, ho, hd]

theorem firstStop_congr {p q : Nat → Bool} {i n : Nat} (h : ∀ j, j < i + n → p j = q j) :
    firstStop p i n = firstStop q i n := by
  induction n generalizing i with
  | zero => rfl
  | succ n ih => simp only [firstStop, h i (by omega), ih (i := i + 1) fun j hj => h j (by omega)]

/-- Padding writes the same idle bytes over both. -/
theorem State.SameUsed.padded (h : s.SameUsed m) : s.padded.Alike (s.withBuf m).padded := by
  refine ⟨_, by rw [padded_eq, padded_eq s]; rfl, fun j hj => ?_⟩
  rw [padded_cursor_toNat] at hj
  rw [padded_buf]
  refine h.read_writeAll ?_
  simp only [List.length_replicate, withBuf_cursor, withBuf_minXfer]
  omega

/-- Only used bytes are sent. -/
theorem State.SameUsed.busRequest (h : s.SameUsed m) : (s.withBuf m).busRequest = s.busRequest := by
  have htx : (s.withBuf m).txBytes = s.txBytes :=
    List.map_congr_left fun j hj => congrArg (· ^^^ _) (h.bufByte (List.mem_range.1 hj))
  unfold State.busRequest
  rw [htx]
  rfl

/-- The exchange gets the same answer and stores the same bytes. -/
theorem State.SameUsed.transfer (h : s.SameUsed m) : s.transfer.Alike (s.withBuf m).transfer := by
  have hreq := h.busRequest
  have hex : (s.withBuf m).exchange (s.withBuf m).busRequest = s.exchange s.busRequest := by rw [hreq]; rfl
  have hsent : (s.withBuf m).sent = s.sent.withBuf m := by unfold State.sent; rw [hreq]; rfl
  obtain he | ⟨rx, he, -⟩ := exchange_cases s s.busRequest
  · rw [transfer_transportError he, transfer_transportError (hex.trans he), hsent, hreq]
    exact ⟨_, rfl, fun j hj => h.read_writeAll (.inl hj)⟩
  · rw [transfer_received he, transfer_received (hex.trans he), hsent]
    exact ⟨_, rfl, fun j hj => h.read_writeAll (.inl hj)⟩

theorem State.Alike.transfer {t t' : State} (h : t.Alike t') : t.transfer.Alike t'.transfer := by
  obtain ⟨m, rfl, h⟩ := h
  exact h.transfer

/-- RESULT takes the same value, which no used byte depends on. -/
theorem State.SameUsed.report (h : s.SameUsed m) {v v' : Nat} (hv : v' = v) :
    (Effect.done (s.setResult v)).Alike (.done ((s.withBuf m).setResult v')) :=
  hv ▸ .done ⟨m, rfl, h⟩

theorem State.SameUsed.execute (h : s.SameUsed m) : RunAlike (execExecute s) (execExecute (s.withBuf m)) := by
  refine h.runCommand (Effect.Alike.guard fun _ => ?_)
  change Effect.Alike _ (if s.pausePending then _ else _)
  split
  · exact .hold
  · exact .settled h.padded.transfer

theorem State.SameUsed.writeReg (h : s.SameUsed m) (reg : RegName) (v : BitVec 48) :
    (writeReg reg v s).Alike (writeReg reg v (s.withBuf m)) := by
  cases reg with
  | speed => exact Effect.Alike.guard fun _ => Effect.Alike.guard fun _ => .done ⟨m, rfl, h⟩
  | polarity | minXfer | crcAcc => exact Effect.Alike.guard fun _ => .done ⟨m, rfl, h⟩
  | _ => exact .raise _

theorem State.SameUsed.rdreg (h : s.SameUsed m) (r : Nat) : RunAlike (execRdreg r s) (execRdreg r (s.withBuf m)) := by
  unfold execRdreg
  cases regOfNumber r with
  | none => exact h.runCommand (.raise _)
  | some reg => exact .next ⟨m, by cases reg <;> rfl, h⟩

/-- Each command tests, sends and writes only what the two states share: the samplers have checked that their bytes lie
below CURSOR (rule R151). -/
theorem State.SameUsed.exec (h : s.SameUsed m) (i : Instr) : RunAlike (exec i s) (exec i (s.withBuf m)) := by
  cases i with
  | clear => exact h.runCommand (.done ⟨m, rfl, nofun⟩)
  | addPattern b n => exact h.runCommand (h.append List.length_replicate _)
  | addPatternT b t => exact h.runCommand (h.append List.length_replicate _)
  | addReset => exact h.runCommand (h.append resetPattern_length _)
  | addWrite a n =>
    refine h.runCommand (Effect.Alike.guard fun _ => Effect.Alike.guard fun _ => ?_)
    rw [withBuf_memRead]
    cases hd : s.memRead a n with
    | none => exact .unwritten
    | some d => exact h.append (by rw [encBytes_length, memRead_length hd]) _
  | addRead n => exact h.runCommand (h.append List.length_replicate _)
  | addCommand b => exact h.runCommand (h.append (encByte_length b) _)
  | addMatchRom u =>
    refine h.runCommand (Effect.Alike.guard fun _ => Effect.Alike.guard fun _ => ?_)
    rw [withBuf_memRead]
    cases hid : s.memRead u 7 with
    | none => exact .unwritten
    | some id => exact h.append (by simp [memRead_length hid]) _
  | addEnumRom u =>
    refine h.runCommand (Effect.Alike.guard fun _ => Effect.Alike.guard fun _ => ?_)
    rw [withBuf_memRead]
    cases s.memRead u 7 with
    | none => exact .unwritten
    | some id => exact h.append (by simp) _
  | decode o a n =>
    refine h.runCommand (Effect.Alike.guard fun _ => Effect.Alike.guard fun hr => ?_)
    rw [h.decodeBytes ((bufInRange_guard_iff s o (8 * n)).1 hr)]
    exact .done ⟨m, rfl, h⟩
  | sample o =>
    refine h.runCommand (Effect.Alike.guard fun hr => h.report ?_)
    rw [h.sampleAt ((bufInRange_guard_iff s o 1).1 hr)]
  | enumBitInfo o k =>
    refine h.runCommand (Effect.Alike.guard fun hk => Effect.Alike.guard fun hr => h.report ?_)
    obtain ⟨hz, ho, -⟩ := h.probes (k := k) (by omega) ((bufInRange_guard_iff s o 168).1 hr)
    rw [hz, ho]
  | computeMatchingBits o k f =>
    refine h.runCommand (Effect.Alike.guard fun hk => Effect.Alike.guard fun hr => h.report ?_)
    exact firstStop_congr fun j hj => h.pathBreaks (by omega) ((bufInRange_guard_iff s o 168).1 hr) f
  | crcCalc a n =>
    refine h.runCommand (Effect.Alike.guard fun _ => ?_)
    rw [withBuf_memRead]
    cases s.memRead a n with
    | none => exact .unwritten
    | some d => exact h.report rfl
  | crcByte b => exact h.runCommand (.done ⟨m, rfl, h⟩)
  | romCheck a =>
    refine h.runCommand (Effect.Alike.guard fun _ => ?_)
    rw [withBuf_memRead]
    cases s.memRead a 8 with
    | none => exact .unwritten
    | some d => exact Effect.Alike.guard fun _ => h.report rfl
  | bitGet a k =>
    refine h.runCommand (Effect.Alike.guard fun _ => Effect.Alike.guard fun _ => ?_)
    rw [withBuf_hmem]
    cases s.hmem.read (a + k / 8) with
    | none => exact .unwritten
    | some b => exact h.report rfl
  | bitSet a k v =>
    refine h.runCommand (Effect.Alike.guard fun _ => Effect.Alike.guard fun _ => ?_)
    rw [withBuf_hmem]
    cases s.hmem.read (a + k / 8) with
    | none => exact .unwritten
    | some b => exact .done ⟨m, rfl, h⟩
  | execute => exact h.execute
  | pause t => exact h.runCommand (.done ⟨m, rfl, h⟩)
  | rdreg r => exact h.rdreg r
  | wrreg r v =>
    refine h.runCommand ?_
    cases regOfNumber r with
    | none => exact .raise _
    | some reg => exact h.writeReg reg v
  | faultAck => exact .next ⟨m, rfl, h⟩

end

/-- Settles O58: the two runs are alike (`State.SameUsed.exec`). -/
theorem unusedBufferBytesAreNeverObserved : Obligations.UnusedBufferBytesAreNeverObserved := by
  intro i s m h
  obtain ⟨t, t', ht, ht', m', rfl, h'⟩ | ⟨f, hf, hf'⟩ := (State.SameUsed.exec h i).cases
  · exact .inl ⟨t, _, ht, ht', rfl, h'⟩
  · exact .inr ⟨f, hf, hf'⟩

end Sys2Proof.Machine

/-! SUPPORT. Register access and the STATUS word (10_state.md rules R26 and R27, 44_bus_timing.md rules R195 and R196),
and a second EXECUTE (70_reset_and_hazards.md rule R255). -/

namespace Sys2Proof

theorem field_encode_opcode (i : Instr) : field (encode i) 7 0 = i.opcode.code := Laws.OpcodeByte.of_any i

namespace Machine

/-! ### STATUS -/

/-- FAULT_CODE as STATUS shows it (rule R27). -/
def FaultLatch.shownCode : Option FaultLatch → Nat
  | none => 0
  | some l => l.code.number

/-- FAULT_OP as STATUS shows it (rule R27). -/
def FaultLatch.shownOp : Option FaultLatch → Nat
  | none => 0
  | some l => l.op.toNat

theorem FaultCode.number_lt (c : FaultCode) : c.number < 256 := by cases c <;> decide

theorem FaultLatch.shownCode_lt (l : Option FaultLatch) : FaultLatch.shownCode l < 256 := by
  cases l with
  | none => decide
  | some l => exact l.code.number_lt

theorem FaultLatch.shownOp_lt (l : Option FaultLatch) : FaultLatch.shownOp l < 256 := by
  cases l with
  | none => decide
  | some l => exact l.op.isLt

/-- The five fields of STATUS at their places. -/
theorem statusWord_eq (s : State) :
    s.statusWord = FaultLatch.shownCode s.latch + s.faulted.toNat * 2 ^ 8 + s.spuEngaged.toNat * 2 ^ 9 +
      s.pausePending.toNat * 2 ^ 10 + FaultLatch.shownOp s.latch * 2 ^ 16 := by
  unfold State.statusWord State.faulted
  cases s.latch with
  | none => simp [FaultLatch.statusBits, FaultLatch.shownCode, FaultLatch.shownOp]
  | some l =>
    simp only [FaultLatch.statusBits, FaultLatch.shownCode, FaultLatch.shownOp, Option.isSome_some, Bool.toNat_true]
    omega

theorem field_ofNat {n : Nat} (hn : n < 2 ^ 64) (hi lo : Nat) :
    field (BitVec.ofNat 64 n) hi lo = n / 2 ^ lo % 2 ^ (hi + 1 - lo) := by
  rw [field, BitVec.toNat_ofNat, Nat.mod_eq_of_lt hn]

/-- A bit of a word that is the value of a flag at that bit. -/
theorem getLsbD_ofNat_of_div {n k : Nat} {b : Bool} (hk : k < 64) (h : n / 2 ^ k % 2 = b.toNat) :
    (BitVec.ofNat 64 n).getLsbD k = b := by
  rw [BitVec.getLsbD_ofNat, Nat.testBit_eq_decide_div_mod_eq, h]
  cases b <;> simp [hk]

/-- Each field read back from STATUS, and 0 in the reserved bits 15:11 and 63:24 (rule R27). -/
theorem statusWord_fields (s : State) {w : Word} (hw : w = BitVec.ofNat 64 s.statusWord) :
    field w 7 0 = FaultLatch.shownCode s.latch ∧ w.getLsbD 8 = s.faulted ∧ w.getLsbD 9 = s.spuEngaged ∧
      w.getLsbD 10 = s.pausePending ∧ field w 15 11 = 0 ∧ field w 23 16 = FaultLatch.shownOp s.latch ∧
      field w 63 24 = 0 := by
  have heq := statusWord_eq s
  have hcode := FaultLatch.shownCode_lt s.latch
  have hop := FaultLatch.shownOp_lt s.latch
  have hf := s.faulted.toNat_le
  have he := s.spuEngaged.toNat_le
  have hp := s.pausePending.toNat_le
  have hlt : s.statusWord < 2 ^ 64 := by omega
  subst hw
  simp only [field_ofNat hlt]
  refine ⟨?_, getLsbD_ofNat_of_div (by decide) ?_, getLsbD_ofNat_of_div (by decide) ?_,
    getLsbD_ofNat_of_div (by decide) ?_, ?_, ?_, ?_⟩ <;> omega

/-- RDREG of a register number copies the register's value, in every state (rule R195). -/
theorem exec_rdreg {r : Nat} {reg : RegName} (h : regOfNumber r = some reg) (s : State) :
    exec (.rdreg r) s = .next (s.setResult (s.regValue reg)).complete := by
  simp only [exec, execRdreg, h]

/-- Settles O46: RESULT is the STATUS word, whose fields `statusWord_fields` reads back. -/
theorem statusShowsItsFields : Obligations.StatusShowsItsFields := by
  intro s
  obtain ⟨hcode, hf, he, hp, hr1, hop, hr2⟩ := statusWord_fields s rfl
  refine ⟨_, exec_rdreg (reg := .status) rfl s, rfl, fun hl => ?_, fun l hl => ?_, he, hp, hr1, hr2⟩
  · rw [hl] at hcode hop
    exact ⟨hcode, hf.trans ((not_faulted_iff s).2 hl), hop⟩
  · rw [hl] at hcode hop
    refine ⟨hf.trans ((faulted_iff s).2 ⟨l, hl⟩), hop, hcode.trans ?_⟩
    cases hc : l.code <;> simp only [FaultLatch.shownCode, FaultCode.number, hc]

/-! ### WRREG -/

/-- With no fault latched a command that raises takes the fault and does nothing else (rule R222). -/
theorem faultsWith_of_raise {i : Instr} {s : State} {c : FaultCode} (hl : s.latch = none)
    (h : exec i s = runCommand i s (.raise c)) : FaultsWith i s c := by
  rw [FaultsWith, h, runCommand_ready ((not_faulted_iff s).2 hl), finish_raise, State.enterFault, field_encode_opcode]

/-- A word of the row with a 1 in a reserved bit is no command, and the BLOCK takes ILLEGAL_COMMAND (rule R86). -/
theorem rejectsReservedBits (op : Opcode) : RejectsReservedBits op op.code op.format := by
  refine ⟨rfl, rfl, fun s w hl hm hc hop hclean => ?_⟩
  have hd : decodeWord w = .illegal (.reservedBits op) := by simp [decodeWord, hop, hclean]
  rw [step_of_moves_nil hm, blockStep_illegal hc hd, illegalCommand_ready hl, State.enterFault, hop]

/-- The number of a register (rule R26). -/
def RegName.number : RegName → Nat
  | .status => 0x00
  | .cursor => 0x01
  | .capacity => 0x02
  | .result => 0x03
  | .speed => 0x04
  | .spu => 0x05
  | .polarity => 0x06
  | .minXfer => 0x07
  | .pausedUntil => 0x08
  | .spiHz => 0x09
  | .crcAcc => 0x0A
  | .now => 0x0B

theorem number_of_regOfNumber {r : Nat} {reg : RegName} (h : regOfNumber r = some reg) : r = reg.number := by
  unfold regOfNumber at h
  split at h <;> cases h <;> rfl

/-- A value has a bit at or above bit `k` exactly when it is too large for `k` bits. -/
theorem ushiftRight_ne_zero_iff (v : BitVec 48) (k : Nat) : v >>> k ≠ 0 ↔ 2 ^ k ≤ v.toNat := by
  have hzero : (0 : BitVec 48).toNat = 0 := rfl
  have hpos := Nat.two_pow_pos k
  rw [ne_eq, ← BitVec.toNat_inj, BitVec.toNat_ushiftRight, Nat.shiftRight_eq_div_pow, hzero, Nat.div_eq_zero_iff]
  omega

section
variable {s : State} {v : BitVec 48}

theorem writeReg_speed (hv : v.toNat < 4) (hmax : ¬(v.getLsbD 0 = true ∧ s.params.maxSpeed = .regular)) :
    writeReg .speed v s = .done (s.selectSpeed (speedOfBit (v.getLsbD 0))) := by
  rw [writeReg, if_neg (by rw [ushiftRight_ne_zero_iff]; omega), if_neg hmax]

theorem writeReg_speed_wide (hv : 4 ≤ v.toNat) : writeReg .speed v s = .raise .illegalValue := by
  rw [writeReg, if_pos ((ushiftRight_ne_zero_iff v 2).2 hv)]

theorem writeReg_speed_unsupported (hb : v.getLsbD 0 = true) (hmax : s.params.maxSpeed = .regular) :
    writeReg .speed v s = .raise .illegalValue := by
  rw [writeReg, if_pos (And.intro hb hmax), ite_self]

theorem writeReg_polarity : writeReg .polarity v s =
    if 2 ≤ v.toNat then .raise .illegalValue else .done { s with invertTx := v.getLsbD 0 } := by
  simp only [writeReg, ushiftRight_ne_zero_iff, Nat.reducePow]

theorem writeReg_minXfer : writeReg .minXfer v s =
    if 65536 ≤ v.toNat then .raise .illegalValue else .done { s with minXfer := BitVec.ofNat 16 v.toNat } := by
  simp only [writeReg, ushiftRight_ne_zero_iff, Nat.reducePow, BitVec.ofNat_toNat]

theorem writeReg_crcAcc : writeReg .crcAcc v s =
    if 256 ≤ v.toNat then .raise .illegalValue else .done { s with crcAcc := BitVec.ofNat 8 v.toNat } := by
  simp only [writeReg, ushiftRight_ne_zero_iff, Nat.reducePow, BitVec.ofNat_toNat]

theorem exec_wrreg {r : Nat} {reg : RegName} (hreg : regOfNumber r = some reg) :
    exec (.wrreg r v) s = runCommand (.wrreg r v) s (writeReg reg v s) := by
  simp only [exec, execWrreg, hreg]

/-- A legal write completes. -/
theorem exec_wrreg_done {r : Nat} {reg : RegName} {u : State} (hl : s.latch = none) (hreg : regOfNumber r = some reg)
    (hw : writeReg reg v s = .done u) : exec (.wrreg r v) s = .next u.complete := by
  rw [exec_wrreg hreg, hw, runCommand_ready ((not_faulted_iff s).2 hl), finish_done]

theorem wrreg_faultsWith {r : Nat} {reg : RegName} {c : FaultCode} (hl : s.latch = none)
    (hreg : regOfNumber r = some reg) (hw : writeReg reg v s = .raise c) : FaultsWith (.wrreg r v) s c :=
  faultsWith_of_raise hl (by rw [exec_wrreg hreg, hw])

/-- Every register but the four writable ones, and every reserved number (rule R196). -/
theorem wrreg_illegalRegister (hl : s.latch = none) {r : Nat} (h4 : r ≠ 0x04) (h6 : r ≠ 0x06) (h7 : r ≠ 0x07)
    (hA : r ≠ 0x0A) : FaultsWith (.wrreg r v) s .illegalRegister := by
  cases hreg : regOfNumber r with
  | none => exact faultsWith_of_raise hl (by simp only [exec, execWrreg, hreg])
  | some reg =>
    have hr := number_of_regOfNumber hreg
    cases reg with
    | speed => exact absurd hr h4
    | polarity => exact absurd hr h6
    | minXfer => exact absurd hr h7
    | crcAcc => exact absurd hr hA
    | _ => exact wrreg_faultsWith hl hreg rfl

end

/-- Settles O48: a register that is not writable, or a value that `writeReg` refuses. -/
theorem wrregFaultsOnBadRegisterOrValue : Obligations.WrregFaultsOnBadRegisterOrValue := by
  intro s v hl
  refine ⟨fun r h4 h6 h7 hA => wrreg_illegalRegister hl h4 h6 h7 hA, fun hv => ?_, fun hb hmax => ?_, fun hv => ?_,
    fun hv => ?_, fun hv => ?_⟩
  · exact wrreg_faultsWith hl rfl (writeReg_speed_wide hv)
  · exact wrreg_faultsWith hl rfl (writeReg_speed_unsupported hb hmax)
  · exact wrreg_faultsWith hl rfl (writeReg_polarity.trans (if_pos hv))
  · exact wrreg_faultsWith hl rfl (writeReg_minXfer.trans (if_pos hv))
  · exact wrreg_faultsWith hl rfl (writeReg_crcAcc.trans (if_pos hv))

/-- Settles O47: each legal value passes its register's check; bit 0 of SPEED chooses the class. -/
theorem wrregWritesTheNamedRegister : Obligations.WrregWritesTheNamedRegister := by
  refine ⟨rejectsReservedBits .wrreg, fun s v hl => ?_⟩
  refine ⟨fun hv hb => ?_, fun hv hb hmax => ?_, fun hv => ?_, fun hv => ?_, fun hv => ?_⟩
  · have hw : writeReg .speed v s = .done (s.selectSpeed .regular) := by
      rw [writeReg_speed hv (by rw [hb]; exact fun h => nomatch h.1), hb]; rfl
    exact exec_wrreg_done hl rfl hw
  · have hw : writeReg .speed v s = .done (s.selectSpeed .overdrive) := by
      rw [writeReg_speed hv (by simp [hmax]), hb]; rfl
    exact exec_wrreg_done hl rfl hw
  · exact exec_wrreg_done hl rfl (writeReg_polarity.trans (if_neg hv.not_ge))
  · exact exec_wrreg_done hl rfl (writeReg_minXfer.trans (if_neg hv.not_ge))
  · exact exec_wrreg_done hl rfl (writeReg_crcAcc.trans (if_neg hv.not_ge))

/-! ### A second EXECUTE -/

/-- With no fault latched, no pause pending and padding that fits, EXECUTE exchanges (rule R181). -/
theorem exec_execute_exchanges {s : State} (hl : s.latch = none) (hfit : s.PaddingFits)
    (hp : s.pausedUntil.toNat ≤ s.now.toNat) : exec .execute s = .next s.padded.transfer := by
  have hpause : s.pausePending = false := by simpa [State.pausePending] using hp
  have hcap : ¬(s.cursor.toNat < s.minXfer.toNat ∧ s.params.bufCap.toNat < s.minXfer.toNat) :=
    fun ⟨hlt, hover⟩ => absurd (hfit hlt) hover.not_ge
  have hend : exec .execute s = runCommand .execute s (.settled s.padded.transfer) := by
    simp only [exec, execExecute, if_neg hcap, hpause, Bool.false_eq_true, if_false]
  rw [hend, runCommand_ready ((not_faulted_iff s).2 hl), finish_settled]

/-- CURSOR at or above MIN_XFER needs no padding. -/
theorem padded_of_minXfer_le {s : State} (h : s.minXfer.toNat ≤ s.cursor.toNat) : s.padded = s :=
  if_neg h.not_gt

/-- Where the used part of BUF is the list `bs`, that is what is sent, under the polarity. -/
theorem txBytes_of_buf {s : State} {m : Memory} {bs : List Byte} (hbuf : s.buf = m.writeAll 0 bs)
    (hlen : bs.length = s.cursor.toNat) :
    s.txBytes = bs.map fun b => b ^^^ (if s.invertTx then 0xFF else 0x00) := by
  refine List.ext_getElem (by simp [hlen]) fun j h1 h2 => ?_
  rw [List.length_map] at h2
  have hbyte : s.bufByte j = bs[j] := by
    have hread := Memory.read_writeAll_inside m 0 bs h2
    rw [Nat.zero_add] at hread
    rw [State.bufByte, hbuf, hread, List.getElem?_eq_getElem h2, Option.getD_some]
  simp only [State.txBytes, List.getElem_map, List.getElem_range, hbyte]
  rfl

/-- Settles O50: the exchange leaves exactly the received bytes below CURSOR, and CURSOR at or above MIN_XFER. -/
theorem secondExecuteRetransmitsTheAnswer : Obligations.SecondExecuteRetransmitsTheAnswer := by
  intro s rx hl hfit hp hex
  have hreceived : s.padded.exchange s.padded.busRequest = .received rx := (padded_exchange s _).trans hex
  have hlen : rx.length = s.padded.cursor.toNat := (received_length hex).trans (txBytes_length _)
  have ht := transfer_received hreceived
  refine ⟨_, exec_execute_exchanges hl hfit hp, padded_of_minXfer_le ?_, ?_⟩
  · rw [ht]
    calc s.padded.minXfer.toNat = s.minXfer.toNat := by rw [padded_minXfer]
      _ ≤ max s.cursor.toNat s.minXfer.toNat := le_max_right ..
      _ = s.padded.cursor.toNat := (padded_cursor_toNat s).symm
  · rw [ht, ← padded_invertTx s]
    exact txBytes_of_buf rfl hlen

end Machine

end Sys2Proof

/-! SUPPORT. The decoder undoes the encoder on every command whose operands fit (30_encoding.md rules R81 to R84), and
the HOST's moves (10_state.md rule R20, 20_memory.md rule R67). -/

namespace Sys2Proof

/-! ### Decoding an encoded command -/

/-- The encoder leaves every reserved bit of the row's format 0 (rule R82). -/
theorem clean_encode (i : Instr) : i.opcode.format.clean (encode i) = true := by
  cases i with
  | addPatternT | wrreg => rfl
  | _ =>
    simp only [Format.clean, Instr.opcode, Opcode.format, Format.reserved, List.all_cons, List.all_nil, field,
      encode_toNat, Instr.operandBits, place, Opcode.code, Bool.and_true, Bool.and_eq_true, beq_iff_eq]
    omega

theorem ofNat_eq_iff {n x : Nat} {b : BitVec n} : BitVec.ofNat n x = b ↔ x % 2 ^ n = b.toNat := by
  rw [← BitVec.toNat_inj, BitVec.toNat_ofNat]

/-- A one-bit field read as a flag. -/
theorem mod_two_beq_one_iff {x : Nat} {f : Bool} : (x % 2 == 1) = f ↔ x % 2 = f.toNat := by
  cases f <;> simp

/-- Every operand is read back from the field it was placed in (rule R81). -/
theorem assemble_encode {i : Instr} (h : i.wellFormed = true) : i.opcode.assemble (encode i) = i := by
  cases i with
  | clear | addReset | execute | faultAck => rfl
  | addPattern b n | addPatternT b n | addCommand b | crcByte b | wrreg n b =>
    have hb := b.isLt
    simp only [Instr.opcode, Opcode.assemble, operandB, operandLow16, operandT, operandR, operandV, field, encode_toNat,
      Instr.operandBits, place, Opcode.code, Instr.wellFormed, fits, decide_eq_true_eq, ofNat_eq_iff,
      Instr.addPattern.injEq, Instr.addPatternT.injEq, Instr.addCommand.injEq, Instr.crcByte.injEq,
      Instr.wrreg.injEq] at h ⊢
    omega
  | computeMatchingBits o k f | bitSet o k f =>
    have hf := f.toNat_le
    simp only [Instr.opcode, Opcode.assemble, operandLow16, operandS, operandF, field, encode_toNat,
      Instr.operandBits, place, Opcode.code, Instr.wellFormed, fits, Bool.and_eq_true, decide_eq_true_eq,
      Nat.reduceAdd, Nat.reduceSub, Nat.reducePow, mod_two_beq_one_iff,
      Instr.computeMatchingBits.injEq, Instr.bitSet.injEq] at h ⊢
    omega
  | _ =>
    simp only [Instr.opcode, Opcode.assemble, operandLow16, operandN2, operandN3, operandS, operandT, operandR,
      field, encode_toNat, Instr.operandBits, place, Opcode.code, Instr.wellFormed, fits, Bool.and_eq_true,
      decide_eq_true_eq, Instr.addWrite.injEq, Instr.addRead.injEq, Instr.addMatchRom.injEq, Instr.addEnumRom.injEq,
      Instr.decode.injEq, Instr.sample.injEq, Instr.enumBitInfo.injEq, Instr.crcCalc.injEq, Instr.romCheck.injEq,
      Instr.bitGet.injEq, Instr.pause.injEq, Instr.rdreg.injEq] at h ⊢
    omega

/-- Decoding the word of a command whose operands fit gives the command back. -/
theorem decodeWord_encode {i : Instr} (h : i.wellFormed = true) : decodeWord (encode i) = .command i := by
  simp only [decodeWord, field_encode_opcode, Opcode.ofByte_code, clean_encode, if_true, assemble_encode h]

namespace Machine

/-! ### The HOST's moves -/

/-- Settles O7: the placed word is the whole encoding, and the schedule's head, a BLOCK entry, is used up. -/
theorem placedWordRunsNext : Obligations.PlacedWordRunsNext := by
  intro s i hi
  have hword : BitVec.ofNat 64 ((encode i).toNat % 2 ^ 64) = encode i := by
    rw [Nat.mod_eq_of_lt (encode i).isLt, BitVec.ofNat_toNat, BitVec.setWidth_eq]
  rw [State.withFetchWord, hword, step_of_moves_block rfl]
  exact blockStep_command rfl (decodeWord_encode hi)

/-- A HOST write between commands, where the byte exists (rules R62 and R67). -/
theorem hostStore_idle {s : State} {a : Nat} (hc : s.cmd = none) (ha : a < s.params.hmemSize) (b : Byte) :
    s.hostStore a b = .next { s with hmem := s.hmem.write a b } := by
  rw [State.hostStore, if_neg (by simp [hc]), if_neg ha.not_ge]

/-- A HOST write during a command is the race of rule R67. -/
theorem hostStore_busy {s : State} {w : Word} (hc : s.cmd = some w) (a : Nat) (b : Byte) :
    s.hostStore a b = .fault .hostRace := by
  rw [State.hostStore, if_pos (by simp [hc])]

theorem step_of_moves_hostWrite {s : State} {a : BitVec 16} {b : Byte} {ms : List Move}
    (hm : s.moves = .hostWrite a b :: ms) : step s = { s with moves := ms }.hostStore a.toNat b := by
  simp only [step, hm]

/-- A word offered to a block that is ready is accepted (rule R20). -/
theorem step_of_moves_command_idle {s : State} {w : Word} {ms : List Move} (hm : s.moves = .command w :: ms)
    (hc : s.cmd = none) : step s = .next ({ s with moves := ms }.accept w) := by
  simp only [step, hm, hc]

theorem blockStep_idle {s : State} (hc : s.cmd = none) : blockStep s = .next s := by
  simp only [blockStep, hc]

/-- Settles O8: an idle block, the handshake, a HOST write between commands, and the race. -/
theorem hostMovesTakeEffectBetweenCommands : Obligations.HostMovesTakeEffectBetweenCommands := by
  intro s ms
  refine ⟨fun hc hm => ?_, fun w hc hm => ?_, fun a b hc hm ha => ?_, fun w a b hc hm => ?_⟩
  · rw [step_of_moves_nil hm, blockStep_idle hc]
  · exact step_of_moves_command_idle hm hc
  · have hstep := (step_of_moves_hostWrite hm).trans (hostStore_idle (s := { s with moves := ms }) hc ha b)
    exact ⟨_, hstep, rfl, Memory.read_write_same .., fun x hx => Memory.read_write_other _ _ hx⟩
  · exact (step_of_moves_hostWrite hm).trans (hostStore_busy (s := { s with moves := ms }) hc ..)

end Machine

end Sys2Proof

/-! SUPPORT. What the other agents' moves do while EXECUTE is held by a pause (44_bus_timing.md rules R181 and R183,
20_memory.md rule R67), and the only writers of HMEM (rule R62). -/

namespace Sys2Proof.Machine

/-! ### EXECUTE under a pending pause -/

/-- With no fault latched and padding that fits, EXECUTE under a pending pause holds (rule R183). -/
theorem exec_execute_holds {s : State} (hl : s.latch = none) (hfit : s.PaddingFits)
    (hp : s.now.toNat < s.pausedUntil.toNat) : exec .execute s = .next s := by
  have hpause : s.pausePending = true := decide_eq_true hp
  have hcap : ¬(s.cursor.toNat < s.minXfer.toNat ∧ s.params.bufCap.toNat < s.minXfer.toNat) :=
    fun ⟨hlt, hover⟩ => absurd (hfit hlt) hover.not_ge
  have hend : exec .execute s = runCommand .execute s .hold := by
    simp only [exec, execExecute, if_neg hcap, hpause, if_true]
  rw [hend, runCommand_ready ((not_faulted_iff s).2 hl), finish_hold]

/-- Padding that does not fit is a BUFFER_OVERFLOW, whether a pause is pending or not (rule R181). -/
theorem execute_overflows {s : State} (hl : s.latch = none) (hlt : s.cursor.toNat < s.minXfer.toNat)
    (hover : s.params.bufCap.toNat < s.minXfer.toNat) : FaultsWith .execute s .bufferOverflow :=
  faultsWith_of_raise hl (by rw [exec, execExecute, if_pos ⟨hlt, hover⟩])

theorem step_of_moves_clock {s : State} {u : BitVec 64} {ms : List Move} (hm : s.moves = .clock u :: ms) :
    step s = .next ({ s with moves := ms }.advanceClock u) := by
  simp only [step, hm]

theorem step_of_moves_reset {s : State} {ms : List Move} (hm : s.moves = .reset :: ms) :
    step s = .next { s with moves := ms }.rst := by
  simp only [step, hm]

/-- CLOCK sets NOW to the later of NOW and its time (rule R35). -/
theorem advanceClock_now_toNat (s : State) (u : BitVec 64) :
    (s.advanceClock u).now.toNat = max s.now.toNat u.toNat := by
  rw [State.advanceClock_now]
  split <;> omega

/-- Settles O39: one case per head of the schedule; where the BLOCK moves, the accepted EXECUTE holds. -/
theorem executeHoldsWhilePaused : Obligations.ExecuteHoldsWhilePaused := by
  refine ⟨fun s hl hfit hp => ⟨exec_execute_holds hl hfit hp, fun w hc hd => ?_⟩,
    fun s hl hlt hover _ => execute_overflows hl hlt hover⟩
  have hblock (ms : List Move) : blockStep { s with moves := ms } = .next { s with moves := ms } :=
    (blockStep_command (s := { s with moves := ms }) hc hd).trans (exec_execute_holds hl hfit hp)
  refine ⟨fun hm => ?nil, fun ms hm => ?block, fun v ms hm => ?command, fun u ms hm => ?clock, fun ms hm => ?reset,
    fun a b ms hm => ?hostWrite⟩
  case nil => exact (step_of_moves_nil hm).trans (hblock s.moves)
  case block => exact (step_of_moves_block hm).trans (hblock ms)
  case command => exact (step_of_moves_command_busy hm hc).trans (hblock s.moves)
  case clock => exact ⟨_, step_of_moves_clock hm, rfl, advanceClock_now_toNat ..⟩
  case reset => exact ⟨_, step_of_moves_reset hm, rfl, rfl, rfl, rfl, rfl, rfl, rfl⟩
  case hostWrite => exact (step_of_moves_hostWrite hm).trans (hostStore_busy (s := { s with moves := ms }) hc ..)

/-! ### The writers of HMEM -/

/-- The command writes the HMEM byte at `a` when it runs to its end (rules R152 and R113). -/
inductive Instr.WritesHmem (a : Nat) : Instr → Prop where
  | decode {o a0 n : Nat} (hlo : a0 ≤ a) (hhi : a < a0 + n) : WritesHmem a (.decode o a0 n)
  | bitSet {a0 k : Nat} {v : Bool} (ha : a = a0 + k / 8) : WritesHmem a (.bitSet a0 k v)

theorem Ran.writesHmem {s t : State} {i : Instr} {a : Nat} (h : Ran s i t) (hne : t.hmem.read a ≠ s.hmem.read a) :
    Instr.WritesHmem a i := by
  cases h with
  | decode o hlen =>
    subst hlen
    have hin := mt (Memory.read_writeAll_outside s.hmem _ _) hne
    exact .decode (by omega) (by omega)
  | bitSet v b => exact .bitSet (not_imp_comm.1 (Memory.read_write_other s.hmem b) hne)
  | _ => exact absurd rfl hne

@[simp] theorem padded_hmem (s : State) : s.padded.hmem = s.hmem := by rw [padded_eq]

@[simp] theorem transfer_hmem (s : State) : s.transfer.hmem = s.hmem := by
  obtain he | ⟨rx, he, -⟩ := exchange_cases s s.busRequest
  · rw [transfer_transportError he]; rfl
  · rw [transfer_received he]; rfl

theorem Ends.writesHmem {s t : State} {i : Instr} {a : Nat} (h : Ends s i t) (hne : t.hmem.read a ≠ s.hmem.read a) :
    Instr.WritesHmem a i := by
  cases h with
  | ran hran => exact hran.writesHmem hne
  | exchanged => exact absurd (by rw [transfer_hmem, padded_hmem]) hne
  | discarded | raised | held => exact absurd rfl hne

/-- The BLOCK changes a byte of HMEM only by running an accepted command that writes it. -/
theorem blockStep_writesHmem {s t : State} {a : Nat} (h : blockStep s = .next t)
    (hne : t.hmem.read a ≠ s.hmem.read a) :
    ∃ w i, s.cmd = some w ∧ decodeWord w = .command i ∧ Instr.WritesHmem a i := by
  obtain ⟨-, rfl⟩ | ⟨w, hc, ⟨i, hd, hi⟩ | ⟨-, rfl⟩⟩ := blockStep_next h
  · exact absurd rfl hne
  · exact ⟨w, i, hc, hd, hi.writesHmem hne⟩
  · exact absurd (by split <;> rfl) hne

/-- Settles O52: of the agents' moves only the HOST's write and the BLOCK's reach HMEM, and of the BLOCK's commands only
DECODE and BIT_SET. -/
theorem onlyDecodeBitSetAndHostWriteHmem : Obligations.OnlyDecodeBitSetAndHostWriteHmem := by
  intro s t a hstep hne
  cases step_next hstep with
  | hostWrite hm =>
    have ha := not_imp_comm.1 (Memory.read_write_other s.hmem _) hne
    exact .inl ⟨_, _, _, hm, ha.symm⟩
  | block _ ht =>
    obtain ⟨w, i, hc, hd, hi⟩ := blockStep_writesHmem ht hne
    cases hi with
    | decode hlo hhi => exact .inr (.inl ⟨w, _, _, _, hc, hd, hlo, hhi⟩)
    | bitSet ha => exact .inr (.inr ⟨w, _, _, _, hc, hd, ha⟩)
  | clock | reset | accept => exact absurd rfl hne

end Sys2Proof.Machine

/-! SUPPORT. The encoder undoes the decoder on every word that is a command (30_encoding.md rules R81 to R84), and the
words that are none: a reserved opcode (rule R85) and a 1 in a reserved bit (rule R86). -/

namespace Sys2Proof

/-! ### Encoding a decoded word -/

theorem field_lt (w : Word) (hi lo : Nat) : field w hi lo < 2 ^ (hi + 1 - lo) := Nat.mod_lt _ (Nat.two_pow_pos _)

@[simp] theorem opcode_assemble (w : Word) (op : Opcode) : (op.assemble w).opcode = op := by cases op <;> rfl

/-- A word is decoded as a command by one row of the opcode map, whose reserved bits it leaves 0. -/
theorem decodeWord_command {w : Word} {i : Instr} (h : decodeWord w = .command i) :
    ∃ op : Opcode, op.code = field w 7 0 ∧ op.format.clean w = true ∧ op.assemble w = i := by
  unfold decodeWord at h
  split at h
  · cases h
  next op hop =>
    split at h
    · next hclean => exact ⟨op, Opcode.code_of_ofByte hop, hclean, by simpa using h⟩
    · cases h

@[simp] theorem fits_operandR (w : Word) : fits 8 (operandR w) = true := decide_eq_true (field_lt w 15 8)
@[simp] theorem fits_operandLow16 (w : Word) : fits 16 (operandLow16 w) = true := decide_eq_true (field_lt w 31 16)
@[simp] theorem fits_operandN2 (w : Word) : fits 16 (operandN2 w) = true := decide_eq_true (field_lt w 47 32)
@[simp] theorem fits_operandN3 (w : Word) : fits 16 (operandN3 w) = true := decide_eq_true (field_lt w 63 48)
@[simp] theorem fits_operandS (w : Word) : fits 8 (operandS w) = true := decide_eq_true (field_lt w 39 32)
@[simp] theorem fits_operandT (w : Word) : fits 48 (operandT w) = true := decide_eq_true (field_lt w 63 16)

/-- Every operand a row reads from a word fits its field (rule R83). -/
theorem wellFormed_assemble (w : Word) (op : Opcode) : (op.assemble w).wellFormed = true := by
  cases op <;> simp [Opcode.assemble, Instr.wellFormed]

/-- A flag read from one bit, put back as that bit. -/
theorem toNat_mod_two_beq_one (x : Nat) : (x % 2 == 1).toNat = x % 2 :=
  (mod_two_beq_one_iff.1 rfl).symm

/-- The fields a format names and its reserved bits make up the word: with the reserved bits 0, OP and the operands put
back in their fields are the whole word (rules R81 and R82). -/
theorem opcode_add_operandBits_assemble {w : Word} {op : Opcode} (h : op.format.clean w = true) :
    field w 7 0 + (op.assemble w).operandBits = w.toNat := by
  have hw := w.isLt
  cases op <;>
    simp only [Opcode.format, Format.clean, Format.reserved, List.all_cons, List.all_nil, Bool.and_true,
      Bool.and_eq_true, beq_iff_eq, Opcode.assemble, Instr.operandBits, place, operandB, operandR, operandLow16,
      operandN2, operandN3, operandS, operandF, operandT, operandV, BitVec.toNat_ofNat, field, Nat.reduceAdd,
      Nat.reduceSub, Nat.reducePow, toNat_mod_two_beq_one] at h ⊢ <;>
    omega

/-- The command a row reads from its word encodes to that word. -/
theorem encode_assemble {w : Word} {op : Opcode} (hop : op.code = field w 7 0) (h : op.format.clean w = true) :
    encode (op.assemble w) = w := by
  apply BitVec.eq_of_toNat_eq
  rw [encode_toNat, opcode_assemble, hop, opcode_add_operandBits_assemble h]

/-- Settles O2: the OP selects the row, the reserved bits are 0, and each operand is read back from its field. -/
theorem decodeOfEncodeIsTheCommand : Obligations.DecodeOfEncodeIsTheCommand := fun _ => decodeWord_encode

/-- Settles O3: the row that decoded the word encodes what it read from it to the same word. -/
theorem encodeOfDecodeIsTheWord : Obligations.EncodeOfDecodeIsTheWord := by
  intro w i h
  obtain ⟨op, hop, hclean, rfl⟩ := decodeWord_command h
  exact ⟨encode_assemble hop hclean, wellFormed_assemble w op⟩

/-- Settles O1: the three words are decoded by evaluation; their encodings follow, as a word that decodes to a command
is its encoding. -/
theorem workedEncodingsDecodeAndEncode : Obligations.WorkedEncodingsDecodeAndEncode := by
  have hpattern : decodeWord 0x000000000004FF11 = .command (.addPattern 0xFF 4) := by decide
  have hmatching : decodeWord 0x0000000100130023 = .command (.computeMatchingBits 19 1 false) := by decide
  have hdecode : decodeWord 0x00080020005B0020 = .command (.decode 91 0x20 8) := by decide
  have hencode {w : Word} {i : Instr} (h : decodeWord w = .command i) : encode i = w :=
    (encodeOfDecodeIsTheWord w i h).1
  exact ⟨hpattern, hmatching, hdecode, hencode hpattern, hencode hmatching, hencode hdecode⟩

/-! ### Words that are no command -/

theorem Opcode.ofByte_eq_none_iff {n : Nat} : Opcode.ofByte n = none ↔ ∀ o : Opcode, o.code ≠ n := by
  refine ⟨fun h o ho => ?_, fun h => Option.eq_none_iff_forall_ne_some.2 fun o ho => h o (Opcode.code_of_ofByte ho)⟩
  rw [← ho, Opcode.ofByte_code] at h
  cases h

/-- A word whose OP is no row's is illegal, whatever its other bits (rule R85). -/
theorem decodeWord_reservedOpcode {w : Word} (h : ∀ o : Opcode, o.code ≠ field w 7 0) :
    decodeWord w = .illegal (.reservedOpcode (field w 7 0)) := by
  simp only [decodeWord, Opcode.ofByte_eq_none_iff.2 h]

namespace Machine

/-- Settles O5: a reserved bit makes the word of any row illegal, and the decoder answers one command or a rejection. -/
theorem reservedBitTakesIllegalCommand : Obligations.ReservedBitTakesIllegalCommand := by
  refine ⟨rejectsReservedBits, fun w => ?_⟩
  cases decodeWord w with
  | command i => exact .inl ⟨i, rfl, fun j hj => (Decoded.command.inj hj).symm⟩
  | illegal why => exact .inr ⟨why, rfl⟩

/-- Settles O4: no row's OP lies in the eight ranges, so the word is illegal and the BLOCK's step is known. -/
theorem reservedOpcodeTakesIllegalCommand : Obligations.ReservedOpcodeTakesIllegalCommand := by
  rintro s w _ rfl hrange hl hm hc
  have hnone (o : Opcode) : o.code ≠ field w 7 0 := by
    cases o <;> simp only [Opcode.code] <;> omega
  obtain ⟨-, hillegal, -⟩ := stepRunsTheAcceptedCommand s s w hc (.inl ⟨hm, rfl⟩)
  exact hillegal _ (decodeWord_reservedOpcode hnone) hl

end Machine

end Sys2Proof

/-! SUPPORT. The CRC-8 commands (40_crc8.md): one bit through the accumulator, the residue property, CRC_CALC, CRC_BYTE
and ROM_CHECK, and a command that the HOST issues to an idle block. -/

namespace Sys2Proof.Machine

/-! ### The CRC function -/

/-- One bit through the accumulator, bit by bit: `mix` is fed in at the ones of 0x8C (rules R100 and R106). -/
theorem getLsbD_crcBit (acc : Byte) (bit : Bool) (k : Nat) :
    (crcBit acc bit).getLsbD k =
      (acc.getLsbD (k + 1) ^^ ((acc.getLsbD 0 ^^ bit) && (0x8C : Byte).getLsbD k)) := by
  rw [crcBit, Nat.add_comm k 1]
  cases acc.getLsbD 0 ^^ bit with
  | false => simp only [Bool.false_eq_true, if_false, BitVec.getLsbD_ushiftRight, Bool.false_and, Bool.xor_false]
  | true => simp only [if_true, BitVec.getLsbD_xor, BitVec.getLsbD_ushiftRight, Bool.true_and]

/-- Settles O29: bit by bit, where 0x8C has its ones at 7, 3 and 2 and nothing is shifted into bit 7. -/
theorem crcBitIsTheFeedbackShiftRegister : Obligations.CrcBitIsTheFeedbackShiftRegister := by
  rintro acc bit _ rfl
  have htop : acc.getLsbD 8 = false := BitVec.getLsbD_of_ge acc 8 le_rfl
  simp only [getLsbD_crcBit, htop]
  simp

/-- An input bit equal to the accumulator's low bit feeds nothing back. -/
theorem crcBit_lowBit (acc : Byte) : crcBit acc (acc.getLsbD 0) = acc >>> 1 := by
  rw [crcBit, Bool.xor_self, if_neg Bool.false_ne_true]

/-- A byte fed into an accumulator equal to it is shifted out, bit by bit: the next input bit is the low bit again. -/
theorem foldl_crcBit_self (c : Byte) (n : Nat) :
    (List.range n).foldl (fun a j => crcBit a (c.getLsbD j)) c = c >>> n := by
  induction n with
  | zero => simp
  | succ n ih =>
    have hlow : c.getLsbD n = (c >>> n).getLsbD 0 := by rw [BitVec.getLsbD_ushiftRight, Nat.add_zero]
    rw [List.range_succ, List.foldl_append, ih, List.foldl_cons, List.foldl_nil, hlow, crcBit_lowBit,
      BitVec.shiftRight_add]

theorem crcOfByte_self (c : Byte) : crcOfByte c c = 0 :=
  (foldl_crcBit_self c 8).trans (BitVec.ushiftRight_eq_zero le_rfl)

/-- Settles O30: the last byte meets an accumulator equal to it. -/
theorem crcOfDataThenItsCrcIsZero : Obligations.CrcOfDataThenItsCrcIsZero := by
  intro a bs
  rw [crc8_append, crc8_cons, crc8_nil, crcOfByte_self]

/-! ### Commands over the bytes of an HMEM operand -/

/-- With no fault latched a command that runs to its end completes (rule R20). -/
theorem exec_of_done {i : Instr} {s u : State} (hl : s.latch = none) (h : exec i s = runCommand i s (.done u)) :
    exec i s = .next u.complete := by
  rw [h, runCommand_ready ((not_faulted_iff s).2 hl), finish_done]

/-- With no fault latched a command that reads an unwritten byte ends the run (rule R234). -/
theorem exec_of_unwritten {i : Instr} {s : State} (hl : s.latch = none) (h : exec i s = runCommand i s .unwritten) :
    exec i s = .fault (.hmemUnwritten i) := by
  rw [h, runCommand_ready ((not_faulted_iff s).2 hl), finish_unwritten]

/-- The state of a command that only reports a byte. -/
theorem complete_setResult_toNat (s : State) (c : Byte) :
    (s.setResult c.toNat).complete = { s with result := c.setWidth 64, cmd := none, cmdDone := true } := by
  rw [State.setResult, State.complete, BitVec.ofNat_toNat]

/-- What a command does with the `n` HMEM bytes at `a`: HMEM_RANGE first, then an unwritten byte, then `f` of the bytes
(rules R61 and R62). -/
def State.readingBytes (s : State) (a n : Nat) (f : List Byte → Effect) : Effect :=
  if !s.hmemInRange a n then .raise .hmemRange
  else match s.memRead a n with
    | none => .unwritten
    | some d => f d

section
variable {s : State} {a n : Nat} (f : List Byte → Effect)

theorem readingBytes_of_out_of_range (h : s.params.hmemSize < a + n) : s.readingBytes a n f = .raise .hmemRange :=
  if_pos (Decidable.of_not_not fun hin => absurd ((hmemInRange_guard_iff s a n).1 hin) h.not_ge)

theorem readingBytes_of_unwritten (h : a + n ≤ s.params.hmemSize) (hu : ∃ k, k < n ∧ s.hmem.read (a + k) = none) :
    s.readingBytes a n f = .unwritten := by
  have hnone : s.memRead a n = none := (Memory.readAll_eq_none_iff s.hmem a n).2 hu
  rw [State.readingBytes, if_neg ((hmemInRange_guard_iff s a n).2 h), hnone]

theorem readingBytes_of_written (h : a + n ≤ s.params.hmemSize) {d : List Byte} (hd : s.hmem.readAll a n = some d) :
    s.readingBytes a n f = f d := by
  have hsome : s.memRead a n = some d := hd
  rw [State.readingBytes, if_neg ((hmemInRange_guard_iff s a n).2 h), hsome]

end

/-- One byte more at the end. -/
theorem Memory.readAll_succ_of_read {m : Memory} {a n : Nat} {d : List Byte} {c : Byte} (hd : m.readAll a n = some d)
    (hc : m.read (a + n) = some c) : m.readAll a (n + 1) = some (d ++ [c]) := by
  obtain ⟨rfl, hread⟩ := (Memory.readAll_eq_some_iff m a n d).1 hd
  refine (Memory.readAll_eq_some_iff m a _ _).2 ⟨by simp, fun j hj => ?_⟩
  obtain hlt | rfl := Nat.lt_succ_iff_lt_or_eq.1 hj
  · rw [hread j hlt, List.getElem?_append_left hlt]
  · rw [hc, List.getElem?_concat_length]

/-! ### CRC_CALC and ROM_CHECK -/

theorem exec_crcCalc (a n : Nat) (s : State) : exec (.crcCalc a n) s =
    runCommand (.crcCalc a n) s (s.readingBytes a n fun d => .done (s.setResult (crc8 0x00 d).toNat)) := rfl

/-- Settles O31: the three outcomes of reading the bytes; the CRC goes to RESULT alone. -/
theorem crcCalcReportsTheCrc : Obligations.CrcCalcReportsTheCrc := by
  refine ⟨fun s a n hl => ⟨fun d hr hd => ?_, fun hr => ?_, fun hr hu => ?_⟩, rejectsReservedBits .crcCalc⟩
  · rw [exec_of_done hl ((exec_crcCalc a n s).trans (by rw [readingBytes_of_written _ hr hd])),
      complete_setResult_toNat]
  · exact faultsWith_of_raise hl (by rw [exec_crcCalc, readingBytes_of_out_of_range _ hr])
  · exact exec_of_unwritten hl (by rw [exec_crcCalc, readingBytes_of_unwritten _ hr hu])

/-- How ROM_CHECK ends on the eight bytes it has read (rule R103). -/
def State.compareCrc (s : State) (r : List Byte) : Effect :=
  if crc8 0x00 (r.take 7) ≠ r.getD 7 0 then .raise .crcMismatch
  else .done (s.setResult (crc8 0x00 (r.take 7)).toNat)

theorem exec_romCheck (a : Nat) (s : State) :
    exec (.romCheck a) s = runCommand (.romCheck a) s (s.readingBytes a 8 s.compareCrc) := rfl

theorem compareCrc_concat (s : State) {d : List Byte} (hlen : d.length = 7) (c : Byte) :
    s.compareCrc (d ++ [c]) =
      if crc8 0x00 d ≠ c then .raise .crcMismatch else .done (s.setResult (crc8 0x00 d).toNat) := by
  have htake : (d ++ [c]).take 7 = d := by rw [← hlen, List.take_left]
  have hlast : (d ++ [c]).getD 7 0 = c := by rw [← hlen]; simp
  rw [State.compareCrc, htake, hlast]

/-- Settles O34: the eight bytes are the seven and the stored CRC, which the comparison takes apart again. -/
theorem romCheckComparesTheStoredCrc : Obligations.RomCheckComparesTheStoredCrc := by
  refine ⟨fun s a hl => ⟨fun d c hr hd hc => ?_, fun hr => ?_, fun hr hu => ?_⟩, rejectsReservedBits .romCheck⟩
  · have hend := exec_romCheck a s
    rw [readingBytes_of_written _ hr (Memory.readAll_succ_of_read hd hc),
      compareCrc_concat s (Memory.readAll_length hd)] at hend
    refine ⟨fun heq => ?_, fun hne => ?_⟩
    · rw [if_neg (not_not.2 heq), heq] at hend
      rw [exec_of_done hl hend, complete_setResult_toNat]
    · rw [if_pos hne] at hend
      exact faultsWith_of_raise hl hend
  · exact faultsWith_of_raise hl (by rw [exec_romCheck, readingBytes_of_out_of_range _ hr])
  · exact exec_of_unwritten hl (by rw [exec_romCheck, readingBytes_of_unwritten _ hr hu])

/-! ### CRC_BYTE -/

/-- CRC_BYTE with no fault latched (rule R102). -/
theorem exec_crcByte {s : State} (hl : s.latch = none) (b : Byte) :
    exec (.crcByte b) s = .next { s with
      crcAcc := crc8 s.crcAcc [b], result := (crc8 s.crcAcc [b]).setWidth 64, cmd := none, cmdDone := true } := by
  rw [exec_of_done hl rfl, complete_setResult_toNat]

/-- Settles O32: the command's equation, and the row's reserved bits. -/
theorem crcByteStepsTheAccumulator : Obligations.CrcByteStepsTheAccumulator :=
  ⟨fun _ b hl => exec_crcByte hl b, rejectsReservedBits .crcByte⟩

/-- A command issued to an idle block with an empty schedule runs in one step, and completes where that step raises
CMD_DONE with no fault latched. -/
theorem issue_of_exec {i : Instr} {s t : State} (hi : i.wellFormed = true) (hc : s.cmd = none) (hm : s.moves = [])
    (h : exec i (s.accept (encode i)) = .next t) (hdone : t.cmdDone = true) (hl : t.latch = none) :
    issue i s = .ok () t := by
  have hstep : step (s.accept (encode i)) = .next t := by
    rw [step_of_moves_nil (s := s.accept _) hm, blockStep_command rfl (decodeWord_encode hi), h]
  rw [issue, if_neg (by simp [hc]), awaitDone]
  simp only [hstep, hdone, hl, if_true]

theorem issue_crcByte {s : State} (hl : s.latch = none) (hc : s.cmd = none) (hm : s.moves = []) (b : Byte) :
    issue (.crcByte b) s = .ok () { s with
      crcAcc := crc8 s.crcAcc [b], result := (crc8 s.crcAcc [b]).setWidth 64, cmdDone := true } := by
  rw [hc]
  exact issue_of_exec rfl hc hm (exec_crcByte (s := s.accept _) hl b) rfl hl

/-- Settles O33: by induction on the list; the block is idle again after each command. -/
theorem crcByteSequenceComputesTheCrc : Obligations.CrcByteSequenceComputesTheCrc := by
  intro s b bs hl hc hm
  induction bs generalizing s b with
  | nil => rw [List.map_cons, issueAll, issue_crcByte hl hc hm]; rfl
  | cons b' bs ih => rw [List.map_cons, issueAll, issue_crcByte hl hc hm]; exact ih _ b' hl hc hm

end Sys2Proof.Machine

/-! SUPPORT. The ROM-code bit commands (41_rom_code.md): what BIT_GET and BIT_SET do with the byte that holds the bit,
what `setBit` changes in it, and the round trip over the seven bytes of a UUID. -/

namespace Sys2Proof.Machine

/-! ### The byte that holds a UUID bit -/

/-- What a command does with the byte that holds bit `k` of the UUID at `a`: BIT_INDEX_RANGE first, then HMEM_RANGE,
then an unwritten byte, then `f` of the byte (rules R111 and R221). -/
def State.readingBitByte (s : State) (a k : Nat) (f : Byte → Effect) : Effect :=
  if k > 55 then .raise .bitIndexRange
  else if !s.hmemInRange a 7 then .raise .hmemRange
  else match s.hmem.read (a + k / 8) with
    | none => .unwritten
    | some b => f b

section
variable {s : State} {a k : Nat} (f : Byte → Effect)

theorem readingBitByte_of_bad_index (hk : 55 < k) : s.readingBitByte a k f = .raise .bitIndexRange := if_pos hk

theorem readingBitByte_of_out_of_range (hk : k ≤ 55) (hr : s.params.hmemSize < a + 7) :
    s.readingBitByte a k f = .raise .hmemRange := by
  rw [State.readingBitByte, if_neg hk.not_gt, if_pos (by simpa [State.hmemInRange] using hr)]

/-- The byte is read once both checks have passed. -/
theorem readingBitByte_in_range (hk : k ≤ 55) (hr : a + 7 ≤ s.params.hmemSize) :
    s.readingBitByte a k f = (s.hmem.read (a + k / 8)).elim .unwritten f := by
  rw [State.readingBitByte, if_neg hk.not_gt, if_neg ((hmemInRange_guard_iff s a 7).2 hr)]
  cases s.hmem.read (a + k / 8) <;> rfl

theorem readingBitByte_of_unwritten (hk : k ≤ 55) (hr : a + 7 ≤ s.params.hmemSize)
    (hu : s.hmem.read (a + k / 8) = none) : s.readingBitByte a k f = .unwritten := by
  rw [readingBitByte_in_range f hk hr, hu, Option.elim_none]

theorem readingBitByte_of_written (hk : k ≤ 55) (hr : a + 7 ≤ s.params.hmemSize) {b : Byte}
    (hb : s.hmem.read (a + k / 8) = some b) : s.readingBitByte a k f = f b := by
  rw [readingBitByte_in_range f hk hr, hb, Option.elim_some]

end

/-- How a command on a UUID bit fails, in the order of its row of R221, whatever it does with the byte. -/
theorem bitCommand_failures {i : Instr} {s : State} {a k : Nat} {f : Byte → Effect} (hl : s.latch = none)
    (h : exec i s = runCommand i s (s.readingBitByte a k f)) :
    (55 < k → FaultsWith i s .bitIndexRange) ∧
    (k ≤ 55 → s.params.hmemSize < a + 7 → FaultsWith i s .hmemRange) ∧
    (k ≤ 55 → a + 7 ≤ s.params.hmemSize → s.hmem.read (a + k / 8) = none → exec i s = .fault (.hmemUnwritten i)) := by
  refine ⟨fun hk => ?_, fun hk hr => ?_, fun hk hr hu => ?_⟩
  · exact faultsWith_of_raise hl (by rw [h, readingBitByte_of_bad_index f hk])
  · exact faultsWith_of_raise hl (by rw [h, readingBitByte_of_out_of_range f hk hr])
  · exact exec_of_unwritten hl (by rw [h, readingBitByte_of_unwritten f hk hr hu])

/-! ### BIT_GET -/

theorem exec_bitGet (a k : Nat) (s : State) : exec (.bitGet a k) s =
    runCommand (.bitGet a k) s (s.readingBitByte a k fun b => .done (s.setResult (b.getLsbD (k % 8)).toNat)) := rfl

/-- The state of a command that only reports a bit. -/
theorem complete_setResult_bit (s : State) (bit : Bool) :
    (s.setResult bit.toNat).complete = { s with result := if bit then 1 else 0, cmd := none, cmdDone := true } := by
  cases bit <;> rfl

/-- BIT_GET of a written byte, with no fault latched (rule R112). -/
theorem exec_bitGet_written {s : State} {a k : Nat} {b : Byte} (hl : s.latch = none) (hk : k ≤ 55)
    (hr : a + 7 ≤ s.params.hmemSize) (hb : s.hmem.read (a + k / 8) = some b) :
    exec (.bitGet a k) s = .next { s with
      result := if b.getLsbD (k % 8) then 1 else 0, cmd := none, cmdDone := true } := by
  rw [exec_of_done hl ((exec_bitGet a k s).trans (by rw [readingBitByte_of_written _ hk hr hb])),
    complete_setResult_bit]

/-- Settles O35: the four outcomes of reading the byte; the bit goes to RESULT alone. -/
theorem bitGetReadsTheBit : Obligations.BitGetReadsTheBit :=
  ⟨fun s a k hl => ⟨fun _ hk hr hb => exec_bitGet_written hl hk hr hb, bitCommand_failures hl (exec_bitGet a k s)⟩,
    rejectsReservedBits .bitGet⟩

/-! ### BIT_SET -/

theorem exec_bitSet (a k : Nat) (v : Bool) (s : State) : exec (.bitSet a k v) s =
    runCommand (.bitSet a k v) s (s.readingBitByte a k fun b =>
      .done { s with hmem := s.hmem.write (a + k / 8) (setBit b (k % 8) v) }) := rfl

/-- BIT_SET of a written byte, with no fault latched (rule R113). -/
theorem exec_bitSet_written {s : State} {a k : Nat} {b : Byte} (v : Bool) (hl : s.latch = none) (hk : k ≤ 55)
    (hr : a + 7 ≤ s.params.hmemSize) (hb : s.hmem.read (a + k / 8) = some b) :
    exec (.bitSet a k v) s = .next { s with
      hmem := s.hmem.write (a + k / 8) (setBit b (k % 8) v), cmd := none, cmdDone := true } := by
  rw [exec_of_done hl ((exec_bitSet a k v s).trans (by rw [readingBitByte_of_written _ hk hr hb])), State.complete]

/-- The mask `1 << k` has its one at bit `k`. -/
theorem getLsbD_one_shiftLeft {j : Nat} (hj : j < 8) (k : Nat) : (1#8 <<< k).getLsbD j = decide (j = k) := by
  rw [← BitVec.twoPow_eq, BitVec.getLsbD_twoPow, ← Bool.decide_and, decide_eq_decide]
  omega

/-- `setBit` replaces bit `k` and keeps the others. -/
theorem getLsbD_setBit (b : Byte) (k : Nat) (v : Bool) {j : Nat} (hj : j < 8) :
    (setBit b k v).getLsbD j = if j = k then v else b.getLsbD j := by
  have hmask := getLsbD_one_shiftLeft hj k
  have hfield : (if v then 1#8 <<< k else 0#8).getLsbD j = (v && decide (j = k)) := by
    cases v with
    | false => exact BitVec.getLsbD_zero
    | true => exact hmask
  rw [setBit, BitVec.getLsbD_or, BitVec.getLsbD_and, BitVec.getLsbD_not, hfield, hmask]
  obtain rfl | hne := eq_or_ne j k
  · simp
  · simp [hne, hj]

/-- Settles O36: the byte written differs from the byte read in one bit, and no other byte is written. -/
theorem bitSetWritesOneBit : Obligations.BitSetWritesOneBit := by
  refine ⟨fun s a k v hl => ⟨fun b hk hr hb => ?_, bitCommand_failures hl (exec_bitSet a k v s)⟩,
    rejectsReservedBits .bitSet⟩
  exact ⟨_, exec_bitSet_written v hl hk hr hb, rfl,
    ⟨_, Memory.read_write_same .., fun _ => getLsbD_setBit b (k % 8) v⟩, fun _ => Memory.read_write_other s.hmem _⟩

/-! ### The round trip -/

/-- Writing one of the bytes read replaces it in the list read. -/
theorem Memory.readAll_write_inside {m : Memory} {a n : Nat} {d : List Byte} (hd : m.readAll a n = some d) {j : Nat}
    (hj : j < n) (b : Byte) : (m.write (a + j) b).readAll a n = some (d.set j b) := by
  obtain ⟨rfl, hread⟩ := (Memory.readAll_eq_some_iff m a n d).1 hd
  refine (Memory.readAll_eq_some_iff _ a _ _).2 ⟨List.length_set, fun i hi => ?_⟩
  obtain rfl | hne := eq_or_ne i j
  · rw [Memory.read_write_same, List.getElem?_set_self hj]
  · rw [Memory.read_write_other m b (by omega), hread i hi, List.getElem?_set_ne hne.symm]

/-- Setting bit `i` in its byte changes no other bit of the UUID (rule R115). -/
theorem uuidBit_set_setBit {d : List Byte} {i j : Nat} {b : Byte} (hb : d[i / 8]? = some b) (hne : j ≠ i) (v : Bool) :
    uuidBit (d.set (i / 8) (setBit b (i % 8) v)) j = uuidBit d j := by
  obtain ⟨hi, rfl⟩ := List.getElem?_eq_some_iff.1 hb
  simp only [uuidBit, List.getD_eq_getElem?_getD]
  by_cases hbyte : j / 8 = i / 8
  · have hbit : j % 8 ≠ i % 8 := by omega
    rw [hbyte, List.getElem?_set_self hi, hb, Option.getD_some, Option.getD_some,
      getLsbD_setBit _ _ _ (Nat.mod_lt j (by decide)), if_neg hbit]
  · rw [List.getElem?_set_ne (Ne.symm hbyte)]

/-- Settles O37: BIT_GET reads the byte that BIT_SET has written, and the other bits are kept within that byte and in
the other six. -/
theorem bitSetThenBitGetRoundTrips : Obligations.BitSetThenBitGetRoundTrips := by
  intro s a i v d hl hi hr hd
  obtain ⟨hlen, hread⟩ := (Memory.readAll_eq_some_iff s.hmem a 7 d).1 hd
  have hbyte : i / 8 < 7 := by omega
  obtain ⟨b, hb⟩ : ∃ b, d[i / 8]? = some b := ⟨_, List.getElem?_eq_getElem (hlen ▸ hbyte)⟩
  have hset := exec_bitSet_written v hl hi hr ((hread _ hbyte).trans hb)
  refine ⟨_, _, _, hset, exec_bitGet_written hl hi hr (Memory.read_write_same ..), ?_,
    Memory.readAll_write_inside hd hbyte _, fun j _ hne => uuidBit_set_setBit hb hne v⟩
  rw [getLsbD_setBit b _ v (Nat.mod_lt i (by decide)), if_pos rfl]

end Sys2Proof.Machine

/-! SUPPORT. The transaction-buffer encoder (42_txbuf_encode.md): the bytes the ADD commands append, what a command that
ends in `Append` can do (rule R120), with and without an HMEM operand, and the sequences of them that the HOST issues. -/

namespace Sys2Proof.Machine

/-! ### The appended bytes, index by index -/

/-- A list of `k` elements whose element `j` is `f j`. -/
theorem eq_map_range {α : Type} {l : List α} {k : Nat} {f : Nat → α} (hlen : l.length = k)
    (h : ∀ j, j < k → l[j]? = some (f j)) : l = (List.range k).map f := by
  refine List.ext_getElem? fun j => ?_
  by_cases hj : j < k
  · rw [h j hj, List.getElem?_map, List.getElem?_range hj, Option.map_some]
  · rw [List.getElem?_eq_none (by omega), List.getElem?_eq_none (by simpa using hj)]

theorem replicate_eq_map_range {α : Type} (n : Nat) (b : α) : List.replicate n b = (List.range n).map fun _ => b :=
  eq_map_range List.length_replicate fun _ hj => List.getElem?_replicate_of_lt hj

theorem resetPattern_eq_map_range :
    resetPattern = (List.range 11).map fun j => if j < 7 then 0x00 else 0xFF := rfl

/-- Slot `j` is bit `j % 8` of byte `j / 8` (rule R127). -/
theorem encBytes_eq_map_range {d : List Byte} {n : Nat} (hlen : d.length = n) :
    encBytes d = (List.range (8 * n)).map fun j => enc ((d.getD (j / 8) 0).getLsbD (j % 8)) := by
  subst hlen
  refine eq_map_range (encBytes_length d) fun j hj => ?_
  have hbyte : d[j / 8]? = some (d.getD (j / 8) 0) := by
    rw [List.getD_eq_getElem _ _ (by omega), List.getElem?_eq_getElem]
  have hslot := encBytes_getElem? d (q := j / 8) (Nat.mod_lt j (by decide : 0 < 8))
  rwa [Nat.div_add_mod, hbyte, Option.map_some] at hslot

/-- Byte `j` of the enum region belongs to the triplet of bit `j / 3`; the third byte of a triplet is the direction
(rule R132). -/
theorem enumRegion_getElem? (id : List Byte) {j : Nat} (hj : j < 168) :
    (enumRegion id)[j]? = some (if j % 3 = 2 then enc (uuidBit id (j / 3)) else 0x7F) := by
  have hbit : (List.range 56)[j / 3]? = some (j / 3) := List.getElem?_range (by omega)
  have hregion : (enumRegion id)[j]? = (enumTriplet id (j / 3))[j % 3]? := by
    have htriplet := flatMap_getElem? (enumTriplet id) 3 (List.range 56) (fun _ => rfl) (q := j / 3)
      (Nat.mod_lt j (by decide))
    rwa [Nat.div_add_mod, hbit, Option.bind_some] at htriplet
  rw [hregion, enumTriplet]
  obtain h | h | h : j % 3 = 0 ∨ j % 3 = 1 ∨ j % 3 = 2 := by omega
  all_goals rw [h]; rfl

/-- The slots of 0xF0, then the enum region (rule R132). -/
theorem enumSearch_eq_map_range (id : List Byte) :
    encByte 0xF0 ++ enumRegion id = (List.range 176).map fun j =>
      if j < 8 then enc ((0xF0 : Byte).getLsbD j)
      else if (j - 8) % 3 = 2 then enc (uuidBit id ((j - 8) / 3)) else 0x7F := by
  refine eq_map_range (by simp) fun j hj => ?_
  by_cases h : j < 8
  · rw [List.getElem?_append_left (by simpa using h), encByte_getElem? _ h, if_pos h]
  · rw [List.getElem?_append_right (by simpa using h), encByte_length, enumRegion_getElem? id (by omega), if_neg h]

/-! ### What `Append` writes -/

/-- The state in which a command that appends `bs` completes (rule R120). -/
def State.appended (s : State) (bs : List Byte) (ret : Nat) : State := (s.appendBytes bs.length bs ret).complete

section
variable {s : State} {bs : List Byte} {ret : Nat}

/-- Between commands, an append writes BUF, CURSOR and RESULT and raises CMD_DONE. -/
theorem appended_frame (hc : s.cmd = none) : s.appended bs ret =
    { s with buf := (s.appended bs ret).buf, cursor := (s.appended bs ret).cursor,
             result := (s.appended bs ret).result, cmdDone := true } := by
  rw [hc]; rfl

theorem appended_cursor_toNat (room : s.cursor.toNat + bs.length ≤ s.params.bufCap.toNat) :
    (s.appended bs ret).cursor.toNat = s.cursor.toNat + bs.length := appendBytes_cursor_toNat room bs ret

theorem appended_result_toNat (hret : ret < 2 ^ 64) : (s.appended bs ret).result.toNat = ret :=
  (BitVec.toNat_ofNat ..).trans (Nat.mod_eq_of_lt hret)

theorem appended_buf_inside {j : Nat} (hj : j < bs.length) :
    (s.appended bs ret).buf.read (s.cursor.toNat + j) = bs[j]? := Memory.read_writeAll_inside s.buf _ bs hj

theorem appended_buf_outside {a : Nat} (ha : a < s.cursor.toNat ∨ s.cursor.toNat + bs.length ≤ a) :
    (s.appended bs ret).buf.read a = s.buf.read a := Memory.read_writeAll_outside s.buf _ bs ha

end

/-- With no fault latched and room, a command that ends in `Append` completes. -/
theorem exec_of_append {i : Instr} {s : State} {k ret : Nat} {bs : List Byte} (hl : s.latch = none)
    (h : exec i s = runCommand i s (append s k bs ret)) (hlen : bs.length = k)
    (room : s.cursor.toNat + k ≤ s.params.bufCap.toNat) : exec i s = .next (s.appended bs ret) := by
  subst hlen
  exact exec_of_done hl (h.trans (by rw [append, if_neg room.not_gt]))

/-- The state after `Append` is the one the statements describe byte by byte. RESULT points into BUF or just above it,
so it does not wrap. -/
theorem appends_of_exec {i : Instr} {s : State} {k ret : Nat} {f : Nat → Byte}
    (h : exec i s = .next (s.appended ((List.range k).map f) ret)) (hret : ret ≤ s.cursor.toNat + k)
    (room : s.cursor.toNat + k ≤ s.params.bufCap.toNat) : Appends i s k f ret := by
  have hlen : ((List.range k).map f).length = k := by simp
  have hcap := s.params.bufCap.isLt
  refine ⟨_, h, rfl, ?_, appended_result_toNat (by omega), fun j hj => ?_, fun a ha => ?_⟩
  · rw [appended_cursor_toNat (by rwa [hlen]), hlen]
  · rw [appended_buf_inside (by rwa [hlen]), List.getElem?_map, List.getElem?_range hj, Option.map_some]
  · exact appended_buf_outside (by rwa [hlen])

/-- The two outcomes of a command that ends in `Append` (rule R120). -/
theorem append_outcomes {i : Instr} {s : State} {k ret : Nat} {bs : List Byte} {f : Nat → Byte} (hl : s.latch = none)
    (h : exec i s = runCommand i s (append s k bs ret)) (hbytes : bs = (List.range k).map f)
    (hret : ret ≤ s.cursor.toNat + k) :
    (s.cursor.toNat + k ≤ s.params.bufCap.toNat → Appends i s k f ret) ∧
    (s.params.bufCap.toNat < s.cursor.toNat + k → FaultsWith i s .bufferOverflow) := by
  subst hbytes
  refine ⟨fun room => appends_of_exec (exec_of_append hl h (by simp) room) hret room, fun hover => ?_⟩
  exact faultsWith_of_raise hl (h.trans (by rw [append, if_pos hover]))

/-! ### Commands with no HMEM operand -/

/-- The state in which CLEAR completes (rule R121). -/
def State.cleared (s : State) : State := { s with cursor := 0 }.complete

theorem exec_clear {s : State} (hl : s.latch = none) : exec .clear s = .next s.cleared := exec_of_done hl rfl

/-- Settles O13: the command's equation, and the row's reserved bits. -/
theorem clearResetsTheCursor : Obligations.ClearResetsTheCursor := ⟨fun _ => exec_clear, rejectsReservedBits .clear⟩

/-- Settles O14: ADD_PATTERN appends `n` copies or finds no room. -/
theorem addPatternAppendsCopies : Obligations.AddPatternAppendsCopies :=
  ⟨fun _ b n hl => append_outcomes hl rfl (replicate_eq_map_range n b) (Nat.le_add_right ..),
    rejectsReservedBits .addPattern⟩

theorem ceilDiv_le_iff {x b n : Nat} (hb : 0 < b) : ceilDiv x b ≤ n ↔ x ≤ n * b := by
  rw [ceilDiv, ← Nat.ceilDiv_eq_add_pred_div, ceilDiv_le_iff_le_mul hb, Nat.mul_comm]

/-- The rounded-up quotient is the least count that covers the duration (rule R123). -/
theorem patternBytes_eq_of_least {s : State} {t n : Nat} (hcovers : t * s.spiHz.toNat ≤ n * (8 * 1000000000))
    (hleast : ∀ m, t * s.spiHz.toNat ≤ m * (8 * 1000000000) → n ≤ m) : s.patternBytes t = n := by
  have hiff (m : Nat) : s.patternBytes t ≤ m ↔ t * s.spiHz.toNat ≤ m * (8 * 1000000000) := ceilDiv_le_iff (by decide)
  exact le_antisymm ((hiff n).2 hcovers) (hleast _ ((hiff _).1 le_rfl))

/-- Settles O15: ADD_PATTERN_T appends as ADD_PATTERN does, with the rounded-up count. -/
theorem addPatternTCoversTheDuration : Obligations.AddPatternTCoversTheDuration := by
  refine ⟨fun s b t n hl hcovers hleast => ?_, rejectsReservedBits .addPatternT⟩
  obtain rfl := patternBytes_eq_of_least hcovers hleast
  exact append_outcomes hl rfl (replicate_eq_map_range _ b) (Nat.le_add_right ..)

/-- Settles O16: the reset pulse and its presence window are appended, or there is no room. -/
theorem addResetAppendsResetPulse : Obligations.AddResetAppendsResetPulse :=
  ⟨fun _ hl => append_outcomes hl rfl resetPattern_eq_map_range (Nat.add_le_add_left (by decide) _),
    rejectsReservedBits .addReset⟩

/-- Settles O18: the probes are appended, or there is no room. -/
theorem addReadAppendsProbes : Obligations.AddReadAppendsProbes :=
  ⟨fun _ _ hl => append_outcomes hl rfl (replicate_eq_map_range _ _) (Nat.le_add_right ..),
    rejectsReservedBits .addRead⟩

/-- Settles O19: `EncByte` lists its slots index by index already. -/
theorem addCommandEncodesItsByte : Obligations.AddCommandEncodesItsByte :=
  ⟨fun _ _ hl => append_outcomes hl rfl rfl (Nat.le_add_right ..), rejectsReservedBits .addCommand⟩

/-! ### Commands that append an encoding of HMEM bytes -/

/-- What a command does that appends `k` bytes made of the `n` HMEM bytes at `a`: HMEM_RANGE first, then
BUFFER_OVERFLOW, then an unwritten byte, then `Append` (rules R127, R131 and R132). -/
def State.encodingBytes (s : State) (a n k : Nat) (slots : List Byte → List Byte) (ret : Nat) : Effect :=
  if !s.hmemInRange a n then .raise .hmemRange
  else if s.cursor.toNat + k > s.params.bufCap.toNat then .raise .bufferOverflow
  else match s.memRead a n with
    | none => .unwritten
    | some d => append s k (slots d) ret

theorem exec_addWrite (a n : Nat) (s : State) : exec (.addWrite a n) s =
    runCommand (.addWrite a n) s (s.encodingBytes a n (8 * n) encBytes s.cursor.toNat) := rfl

/-- The slots of a MATCH ROM: the ROM command, the UUID and the CRC computed over it (rule R131). -/
def matchRomSlots (id : List Byte) : List Byte := encBytes (0x55 :: (id ++ [crc8 0x00 id]))

theorem matchRomSlots_length {id : List Byte} (hid : id.length = 7) : (matchRomSlots id).length = 72 := by
  simp [matchRomSlots, hid]

theorem exec_addMatchRom (u : Nat) (s : State) : exec (.addMatchRom u) s =
    runCommand (.addMatchRom u) s (s.encodingBytes u 7 72 matchRomSlots s.cursor.toNat) := rfl

theorem exec_addEnumRom (u : Nat) (s : State) : exec (.addEnumRom u) s =
    runCommand (.addEnumRom u) s
      (s.encodingBytes u 7 176 (fun id => encByte 0xF0 ++ enumRegion id) (s.cursor.toNat + 8)) := rfl

section
variable {s : State} {a n k ret : Nat} (slots : List Byte → List Byte)

theorem encodingBytes_of_out_of_range (h : s.params.hmemSize < a + n) :
    s.encodingBytes a n k slots ret = .raise .hmemRange :=
  if_pos (by simpa [State.hmemInRange] using h)

theorem encodingBytes_of_overflow (h : a + n ≤ s.params.hmemSize)
    (hover : s.params.bufCap.toNat < s.cursor.toNat + k) :
    s.encodingBytes a n k slots ret = .raise .bufferOverflow := by
  rw [State.encodingBytes, if_neg ((hmemInRange_guard_iff s a n).2 h), if_pos hover]

/-- Where there is room, what is left is reading the bytes. -/
theorem encodingBytes_of_room (room : s.cursor.toNat + k ≤ s.params.bufCap.toNat) :
    s.encodingBytes a n k slots ret = s.readingBytes a n fun d => append s k (slots d) ret := by
  rw [State.encodingBytes, if_neg room.not_gt]
  rfl

theorem encodingBytes_of_written (h : a + n ≤ s.params.hmemSize) (room : s.cursor.toNat + k ≤ s.params.bufCap.toNat)
    {d : List Byte} (hd : s.hmem.readAll a n = some d) :
    s.encodingBytes a n k slots ret = append s k (slots d) ret :=
  (encodingBytes_of_room slots room).trans (readingBytes_of_written _ h hd)

end

/-- Every outcome of such a command, in the order of its row of R221. -/
theorem encodingBytes_outcomes {i : Instr} {s : State} {a n k ret : Nat} {slots : List Byte → List Byte}
    {f : List Byte → Nat → Byte} (hl : s.latch = none)
    (h : exec i s = runCommand i s (s.encodingBytes a n k slots ret))
    (hslots : ∀ d, d.length = n → slots d = (List.range k).map (f d)) (hret : ret ≤ s.cursor.toNat + k) :
    (∀ d, a + n ≤ s.params.hmemSize → s.cursor.toNat + k ≤ s.params.bufCap.toNat → s.hmem.readAll a n = some d →
      Appends i s k (f d) ret) ∧
    (s.params.hmemSize < a + n → FaultsWith i s .hmemRange) ∧
    (a + n ≤ s.params.hmemSize → s.params.bufCap.toNat < s.cursor.toNat + k → FaultsWith i s .bufferOverflow) ∧
    (a + n ≤ s.params.hmemSize → s.cursor.toNat + k ≤ s.params.bufCap.toNat →
      (∃ j, j < n ∧ s.hmem.read (a + j) = none) → exec i s = .fault (.hmemUnwritten i)) := by
  refine ⟨fun d hr room hd => ?_, fun hr => ?_, fun hr hover => ?_, fun hr room hu => ?_⟩
  · rw [encodingBytes_of_written slots hr room hd] at h
    exact (append_outcomes hl h (hslots d (Memory.readAll_length hd)) hret).1 room
  · exact faultsWith_of_raise hl (by rw [h, encodingBytes_of_out_of_range slots hr])
  · exact faultsWith_of_raise hl (by rw [h, encodingBytes_of_overflow slots hr hover])
  · exact exec_of_unwritten hl (by rw [h, encodingBytes_of_room slots room, readingBytes_of_unwritten _ hr hu])

/-- Settles O17: the slots of the bytes read, index by index. -/
theorem addWriteEncodesEachBit : Obligations.AddWriteEncodesEachBit :=
  ⟨fun s a n hl => encodingBytes_outcomes hl (exec_addWrite a n s) (fun _ => encBytes_eq_map_range)
    (Nat.le_add_right ..), rejectsReservedBits .addWrite⟩

/-- Settles O20: the nine bytes sent are 0x55, the seven read and the CRC computed over these. -/
theorem addMatchRomSendsTheComputedCrc : Obligations.AddMatchRomSendsTheComputedCrc :=
  ⟨fun s u hl => encodingBytes_outcomes hl (exec_addMatchRom u s)
    (fun id hid => encBytes_eq_map_range (n := 9) (by simp [hid])) (Nat.le_add_right ..),
    rejectsReservedBits .addMatchRom⟩

/-- Settles O21: the slots of 0xF0 and the enum region over the bytes read, index by index. -/
theorem addEnumRomAppendsTheSearchRegion : Obligations.AddEnumRomAppendsTheSearchRegion :=
  ⟨fun s u hl => encodingBytes_outcomes hl (exec_addEnumRom u s) (fun id _ => enumSearch_eq_map_range id)
    (Nat.add_le_add_left (by decide) _), rejectsReservedBits .addEnumRom⟩

/-! ### Sequences the HOST issues -/

theorem issueAll_cons_of_ok {i : Instr} {is : List Instr} {s t : State} (h : issue i s = .ok () t) :
    issueAll (i :: is) s = issueAll is t := by
  rw [issueAll, h, HostRun.andThen]

theorem Memory.writeAll_append (m : Memory) (a : Nat) (xs ys : List Byte) :
    m.writeAll a (xs ++ ys) = (m.writeAll a xs).writeAll (a + xs.length) ys := by
  induction xs generalizing m a with
  | nil => rfl
  | cons x xs ih =>
    rw [List.cons_append, Memory.writeAll_cons, Memory.writeAll_cons, ih, List.length_cons, Nat.add_assoc,
      Nat.add_comm 1]

/-- Two appends in a row are one append of both lists: CURSOR stands at the end of the first. -/
theorem appended_appended {s : State} {xs : List Byte} (room : s.cursor.toNat + xs.length ≤ s.params.bufCap.toNat)
    (r : Nat) (ys : List Byte) (ret : Nat) :
    (s.appended xs r).appended ys ret = s.appended (xs ++ ys) ret := by
  have hcursor := appended_cursor_toNat (ret := r) room
  have hbuf : (s.appended xs r).buf = s.buf.writeAll s.cursor.toNat xs := rfl
  rw [State.appended, State.appendBytes, hcursor, hbuf, ← Memory.writeAll_append, Nat.add_assoc, ← List.length_append]
  rfl

/-- The block is ready for the HOST: no fault latched, no word accepted, no move scheduled. -/
structure State.Idle (s : State) : Prop where
  latch : s.latch = none
  cmd : s.cmd = none
  moves : s.moves = []

theorem State.Idle.appended {s : State} (h : s.Idle) (bs : List Byte) (ret : Nat) : (s.appended bs ret).Idle :=
  ⟨h.latch, rfl, h.moves⟩

/-- An append command issued to an idle block, where the accepted state has room. -/
theorem issue_of_append {i : Instr} {s : State} {k ret : Nat} {bs : List Byte} (hs : s.Idle)
    (hi : i.wellFormed = true)
    (h : exec i (s.accept (encode i)) = runCommand i (s.accept (encode i)) (append (s.accept (encode i)) k bs ret))
    (hlen : bs.length = k) (room : s.cursor.toNat + k ≤ s.params.bufCap.toNat) : issue i s = .ok () (s.appended bs ret) :=
  issue_of_exec hi hs.cmd hs.moves (exec_of_append (s := s.accept _) hs.latch h hlen room) rfl hs.latch

/-! After appends of `xs` to `s`, CURSOR stands at `e`, where the next append command puts its bytes. -/

section
variable {s : State} {xs : List Byte} {r e : Nat} (hs : s.Idle) (he : s.cursor.toNat + xs.length = e)

include he in
theorem appended_cursor_eq (hle : e ≤ s.params.bufCap.toNat) : (s.appended xs r).cursor.toNat = e :=
  (appended_cursor_toNat (he.trans_le hle)).trans he

include hs he

theorem issue_append_after {i : Instr} {k ret : Nat} {bs : List Byte} (hi : i.wellFormed = true)
    (h : exec i ((s.appended xs r).accept (encode i)) =
      runCommand i ((s.appended xs r).accept (encode i)) (append ((s.appended xs r).accept (encode i)) k bs ret))
    (hlen : bs.length = k) (room : e + k ≤ s.params.bufCap.toNat) :
    issue i (s.appended xs r) = .ok () (s.appended (xs ++ bs) ret) := by
  have hle : e ≤ s.params.bufCap.toNat := (Nat.le_add_right ..).trans room
  have hcursor := appended_cursor_eq (r := r) he hle
  rw [issue_of_append (hs.appended xs r) hi h hlen (hcursor ▸ room), appended_appended (he.trans_le hle)]

theorem issue_addCommand_after (b : Byte) (room : e + 8 ≤ s.params.bufCap.toNat) :
    issue (.addCommand b) (s.appended xs r) = .ok () (s.appended (xs ++ encByte b) e) := by
  have hcursor := appended_cursor_eq (r := r) he (by omega)
  exact issue_append_after hs he rfl (by rw [← hcursor]; rfl) (encByte_length b) room

theorem issue_addRead_after {n : Nat} (room : e + 8 * n ≤ s.params.bufCap.toNat) :
    issue (.addRead n) (s.appended xs r) = .ok () (s.appended (xs ++ List.replicate (8 * n) 0x7F) e) := by
  have hcap := s.params.bufCap.isLt
  have hcursor := appended_cursor_eq (r := r) he (by omega)
  exact issue_append_after hs he (decide_eq_true (by omega)) (by rw [← hcursor]; rfl) List.length_replicate room

theorem issue_addMatchRom_after {u : Nat} {id : List Byte} (hu : u < 65536) (hr : u + 7 ≤ s.params.hmemSize)
    (hid : s.hmem.readAll u 7 = some id) (room : e + 72 ≤ s.params.bufCap.toNat) :
    issue (.addMatchRom u) (s.appended xs r) = .ok () (s.appended (xs ++ matchRomSlots id) e) := by
  have hcursor := appended_cursor_eq (r := r) he (by omega)
  have hslots := encodingBytes_of_written (s := (s.appended xs r).accept (encode (.addMatchRom u))) (ret := e)
    matchRomSlots hr (hcursor ▸ room) hid
  refine issue_append_after hs he (decide_eq_true hu) ?_ (matchRomSlots_length (Memory.readAll_length hid)) room
  rw [← hslots, ← hcursor]
  exact exec_addMatchRom u _

end

/-- ADD_READ_ROM is one append of the slots of 0x33 and the probes (rule R133). -/
theorem issueAll_addReadRom {s : State} (hs : s.Idle) (room : s.cursor.toNat + 72 ≤ s.params.bufCap.toNat) :
    issueAll (Pseudo.expand .addReadRom) s =
      .ok () (s.appended (encByte 0x33 ++ List.replicate 64 0x7F) (s.cursor.toNat + 8)) := by
  have hcommand := issue_of_append (i := .addCommand 0x33) hs rfl rfl (encByte_length _) (by omega)
  have hread := issue_addRead_after (r := s.cursor.toNat) (xs := encByte 0x33) (n := 8) hs rfl room
  exact (issueAll_cons_of_ok hcommand).trans (issueAll_cons_of_ok hread)

/-- Settles O22: the 72 bytes are the eight slots and then the probes. -/
theorem readRomSequenceReturnsProbeStart : Obligations.ReadRomSequenceReturnsProbeStart := by
  intro s hl hc hm room
  have hcap := s.params.bufCap.isLt
  have hslots := encByte_length 0x33
  have hlen : (encByte 0x33 ++ List.replicate 64 0x7F).length = 72 := by simp
  refine ⟨_, issueAll_addReadRom ⟨hl, hc, hm⟩ room, appended_frame hc, ?_, appended_result_toNat (by omega),
    fun j hj => ?_, fun j hlo hhi => ?_, fun a ha => appended_buf_outside (by rwa [hlen])⟩
  · rw [appended_cursor_toNat (by rwa [hlen]), hlen]
  · rw [appended_buf_inside (by omega), List.getElem?_append_left (by omega)]
    exact encByte_getElem? _ hj
  · rw [appended_buf_inside (by omega), List.getElem?_append_right (by omega)]
    exact List.getElem?_replicate_of_lt (by omega)

/-- What DEV_READ puts before its probes: the reset, the MATCH ROM and the device's command (rule R194). -/
def devReadLead (id : List Byte) (c : Byte) : List Byte := resetPattern ++ matchRomSlots id ++ encByte c

theorem devReadLead_length {id : List Byte} (hid : id.length = 7) (c : Byte) : (devReadLead id c).length = 91 := by
  simp [devReadLead, matchRomSlots_length hid]

theorem State.Idle.cleared {s : State} (h : s.Idle) : s.cleared.Idle := ⟨h.latch, rfl, h.moves⟩

theorem cleared_cursor_toNat (s : State) : s.cleared.cursor.toNat = 0 := rfl

theorem issue_clear {s : State} (hs : s.Idle) : issue .clear s = .ok () s.cleared :=
  issue_of_exec rfl hs.cmd hs.moves (exec_clear (s := s.accept _) hs.latch) rfl hs.latch

/-- The building commands of DEV_READ fill BUF from 0 with one run of bytes, and RESULT is the probes' start. -/
theorem issueAll_devRead_build {s : State} {u : Nat} {id : List Byte} (hs : s.Idle) (hu : u < 65536)
    (hr : u + 7 ≤ s.params.hmemSize) (hid : s.hmem.readAll u 7 = some id) (c : Byte) {n : Nat}
    (room : 91 + 8 * n ≤ s.params.bufCap.toNat) :
    issueAll [.clear, .addReset, .addMatchRom u, .addCommand c, .addRead n] s =
      .ok () (s.cleared.appended (devReadLead id c ++ List.replicate (8 * n) 0x7F) 91) := by
  have hlen := Memory.readAll_length hid
  have hbuild : s.cleared.cursor.toNat + (resetPattern ++ matchRomSlots id).length = 83 := by
    rw [cleared_cursor_toNat, List.length_append, matchRomSlots_length hlen]; rfl
  have hprobes : s.cleared.cursor.toNat + (devReadLead id c).length = 91 := by
    rw [cleared_cursor_toNat, devReadLead_length hlen]
  calc issueAll [.clear, .addReset, .addMatchRom u, .addCommand c, .addRead n] s
    _ = issueAll [.addReset, .addMatchRom u, .addCommand c, .addRead n] s.cleared :=
      issueAll_cons_of_ok (issue_clear hs)
    _ = issueAll [.addMatchRom u, .addCommand c, .addRead n] (s.cleared.appended resetPattern 8) :=
      issueAll_cons_of_ok (issue_of_append hs.cleared rfl rfl rfl (show 0 + 11 ≤ s.params.bufCap.toNat by omega))
    _ = issueAll [.addCommand c, .addRead n] (s.cleared.appended (resetPattern ++ matchRomSlots id) 11) :=
      issueAll_cons_of_ok (issue_addMatchRom_after hs.cleared rfl hu hr hid
        (show 11 + 72 ≤ s.params.bufCap.toNat by omega))
    _ = issueAll [.addRead n] (s.cleared.appended (devReadLead id c) 83) :=
      issueAll_cons_of_ok (issue_addCommand_after hs.cleared hbuild c
        (show 83 + 8 ≤ s.params.bufCap.toNat by omega))
    _ = .ok () (s.cleared.appended (devReadLead id c ++ List.replicate (8 * n) 0x7F) 91) :=
      issueAll_cons_of_ok (issue_addRead_after hs.cleared hprobes room)

/-- Settles O51: the probes follow 91 bytes from a cleared CURSOR. -/
theorem devReadReadsFromOffset91 : Obligations.DevReadReadsFromOffset91 := by
  intro s u c a n id hl hc hm hu hr hid room
  have hlead := devReadLead_length (Memory.readAll_length hid) c
  have hlen : (devReadLead id c ++ List.replicate (8 * n) 0x7F).length = 91 + 8 * n := by simp [hlead]
  have hroom : s.cleared.cursor.toNat + (devReadLead id c ++ List.replicate (8 * n) 0x7F).length ≤
      s.cleared.params.bufCap.toNat := by
    rw [cleared_cursor_toNat, hlen]; exact (show 0 + (91 + 8 * n) ≤ s.params.bufCap.toNat by omega)
  refine ⟨rfl, _, issueAll_devRead_build ⟨hl, hc, hm⟩ hu hr hid c (by omega), ?_, ?_,
    appended_result_toNat (by decide), fun j hj => ?_⟩
  · exact (appended_frame rfl).trans (by rw [hc]; rfl)
  · rw [appended_cursor_toNat hroom, cleared_cursor_toNat, hlen]; omega
  · rw [← Nat.zero_add (91 + j), ← cleared_cursor_toNat s, appended_buf_inside (by omega),
      List.getElem?_append_right (by omega)]
    exact List.getElem?_replicate_of_lt (by omega)

end Sys2Proof.Machine

/-! SUPPORT. The sampler, the decoder and the search collision detector (43_sample_decode.md): what a sampled level is,
the byte DECODE makes of eight levels, the scan of COMPUTE_MATCHING_BITS, and that what the encoder wrote is read back. -/

namespace Sys2Proof.Machine

/-! ### The sampling rule -/

/-- Settles O23: the mask 0x70 has its ones at bits 6, 5 and 4. -/
theorem sampleLooksAtThreeBits : Obligations.SampleLooksAtThreeBits := by
  unfold Obligations.SampleLooksAtThreeBits
  decide

/-! ### Commands that check two bounds -/

/-- A command that checks two bounds in order before it runs to its end (the rows of rule R221 for DECODE,
ENUM_BIT_INFO and COMPUTE_MATCHING_BITS). -/
theorem bounded_outcomes {i : Instr} {s u : State} {x y xmax ymax : Nat} {c c' : FaultCode} (hl : s.latch = none)
    (h : exec i s = runCommand i s (if xmax < x then .raise c else if ymax < y then .raise c' else .done u)) :
    (x ≤ xmax → y ≤ ymax → exec i s = .next u.complete) ∧ (xmax < x → FaultsWith i s c) ∧
      (x ≤ xmax → ymax < y → FaultsWith i s c') := by
  refine ⟨fun hx hy => ?_, fun hx => ?_, fun hx hy => ?_⟩
  · exact exec_of_done hl (by rw [h, if_neg hx.not_gt, if_neg hy.not_gt])
  · exact faultsWith_of_raise hl (by rw [h, if_pos hx])
  · exact faultsWith_of_raise hl (by rw [h, if_neg hx.not_gt, if_pos hy])

theorem not_hmemInRange_iff (s : State) (a n : Nat) : (!s.hmemInRange a n) = true ↔ s.params.hmemSize < a + n := by
  simp [State.hmemInRange]

theorem not_bufInRange_iff (s : State) (o k : Nat) : (!s.bufInRange o k) = true ↔ s.cursor.toNat < o + k := by
  simp [State.bufInRange]

/-! ### DECODE -/

theorem getLsbD_foldl_range (bit : Nat → Bool) (n : Nat) {j : Nat} (hj : j < 8) :
    ((List.range n).foldl (fun out i => out ||| (if bit i then 1#8 <<< i else 0#8)) 0x00).getLsbD j =
      (decide (j < n) && bit j) := by
  induction n with
  | zero => simp
  | succ n ih =>
    have hnew : (if bit n then 1#8 <<< n else 0#8).getLsbD j = (decide (j = n) && bit n) := by
      cases bit n with
      | false => simp
      | true => simpa using getLsbD_one_shiftLeft hj n
    rw [List.range_succ, List.foldl_concat, BitVec.getLsbD_or, ih, hnew]
    obtain rfl | hne := eq_or_ne j n
    · simp
    · simp [hne, Nat.le_iff_lt_or_eq]

/-- The eight levels are the eight bits (rule R152). -/
theorem getLsbD_byteOfBits (bit : Nat → Bool) {j : Nat} (hj : j < 8) : (byteOfBits bit).getLsbD j = bit j := by
  rw [byteOfBits, getLsbD_foldl_range bit 8 hj, decide_eq_true hj, Bool.true_and]

theorem byteOfBits_getLsbD (b : Byte) : byteOfBits b.getLsbD = b :=
  BitVec.eq_of_getLsbD_eq fun _ hj => getLsbD_byteOfBits _ hj

theorem decodeBytes_getElem? (s : State) (o : Nat) {n k : Nat} (hk : k < n) :
    (s.decodeBytes o n)[k]? = some (s.decodeByte (o + 8 * k)) := by
  rw [State.decodeBytes, List.getElem?_map, List.getElem?_range hk, Option.map_some]

theorem exec_decode (o a n : Nat) (s : State) : exec (.decode o a n) s =
    runCommand (.decode o a n) s (if s.params.hmemSize < a + n then .raise .hmemRange
      else if s.cursor.toNat < o + 8 * n then .raise .bufferRange
      else .done { s with hmem := s.hmem.writeAll a (s.decodeBytes o n) }) := by
  simp only [exec, execDecode, not_hmemInRange_iff, not_bufInRange_iff]

/-- Settles O24: byte `k` written is the byte of the eight levels at `o + 8k`, and no other byte is written. -/
theorem decodeWritesSampledBytes : Obligations.DecodeWritesSampledBytes := by
  refine ⟨fun s o a n hl => ?_, rejectsReservedBits .decode⟩
  obtain ⟨hdone, hfaults⟩ := bounded_outcomes hl (exec_decode o a n s)
  have hlen := decodeBytes_length s o n
  refine ⟨fun hr hb => ⟨_, hdone hr hb, rfl, fun k hk => ?_, fun x hx => ?_⟩, hfaults⟩
  · have hread := (Memory.read_writeAll_inside s.hmem a _ (by rwa [hlen])).trans (decodeBytes_getElem? s o hk)
    exact ⟨_, hread, fun j hj => getLsbD_byteOfBits _ hj⟩
  · exact Memory.read_writeAll_outside s.hmem a _ (by rwa [hlen])

/-! ### SAMPLE -/

/-- Settles O25: the level of one byte goes to RESULT alone. -/
theorem sampleReportsTheLevel : Obligations.SampleReportsTheLevel := by
  refine ⟨fun s o hl => ⟨fun hr => ?_, fun hr => ?_⟩, rejectsReservedBits .sample⟩
  · have hrun : exec (.sample o) s = runCommand (.sample o) s (.done (s.setResult (s.sampleAt o).toNat)) := by
      rw [exec, execSample, if_neg ((bufInRange_guard_iff s o 1).2 hr)]
    rw [exec_of_done hl hrun, complete_setResult_bit]
    simp only [State.sampleAt, sample, beq_iff_eq]
  · exact faultsWith_of_raise hl (by rw [exec, execSample, if_pos ((not_bufInRange_iff s o 1).2 hr)])

/-! ### ENUM_BIT_INFO -/

/-- RESULT of ENUM_BIT_INFO: bit 0 has_zero, bit 1 has_one, bit 2 their or (rule R155). -/
def probeFlags (zero one : Bool) : Nat := zero.toNat + 2 * one.toNat + 4 * (zero || one).toNat

theorem getLsbD_probeFlags (zero one : Bool) :
    (BitVec.ofNat 64 (probeFlags zero one)).getLsbD 0 = zero ∧
    (BitVec.ofNat 64 (probeFlags zero one)).getLsbD 1 = one ∧
    (BitVec.ofNat 64 (probeFlags zero one)).getLsbD 2 = (zero || one) ∧
    (BitVec.ofNat 64 (probeFlags zero one)).toNat < 8 := by
  revert zero one
  decide

theorem exec_enumBitInfo (o k : Nat) (s : State) : exec (.enumBitInfo o k) s =
    runCommand (.enumBitInfo o k) s (if 55 < k then .raise .bitIndexRange
      else if s.cursor.toNat < o + 168 then .raise .bufferRange
      else .done (s.setResult (probeFlags (s.hasZero o k) (s.hasOne o k)))) := by
  simp only [exec, execEnumBitInfo, not_bufInRange_iff, probeFlags, gt_iff_lt]

/-- Settles O26: the two probes of the bit, and the checks in their order. -/
theorem enumBitInfoReportsTheProbes : Obligations.EnumBitInfoReportsTheProbes := by
  refine ⟨fun s o k hl => ?_, rejectsReservedBits .enumBitInfo⟩
  obtain ⟨hdone, hfaults⟩ := bounded_outcomes hl (exec_enumBitInfo o k s)
  exact ⟨fun hk hr => ⟨_, hdone hk hr, rfl, getLsbD_probeFlags _ _⟩, hfaults⟩

/-! ### COMPUTE_MATCHING_BITS -/

/-- The scan stops where the assumed direction is absent, or at a fork that is not allowed (rule R156). -/
theorem pathBreaks_iff (s : State) (o : Nat) (f : Bool) (i : Nat) : s.pathBreaks o f i = true ↔
    (sample (s.bufByte (o + 3 * i + 2)) = false ∧ sample (s.bufByte (o + 3 * i)) = true) ∨
    (sample (s.bufByte (o + 3 * i + 2)) = true ∧ sample (s.bufByte (o + 3 * i + 1)) = true) ∨
    (f = false ∧ sample (s.bufByte (o + 3 * i)) = false ∧ sample (s.bufByte (o + 3 * i + 1)) = false) := by
  simp [State.pathBreaks, State.dirBit, State.hasZero, State.hasOne, State.sampleAt, or_assoc, and_assoc]

/-- The scan goes on where the assumed direction is present and, unless forks are allowed, alone (rule R156). -/
theorem not_pathBreaks_iff (s : State) (o : Nat) (f : Bool) (i : Nat) : s.pathBreaks o f i = false ↔
    (sample (s.bufByte (o + 3 * i + 2)) = false → sample (s.bufByte (o + 3 * i)) = false) ∧
    (sample (s.bufByte (o + 3 * i + 2)) = true → sample (s.bufByte (o + 3 * i + 1)) = false) ∧
    (f = false → sample (s.bufByte (o + 3 * i)) = true ∨ sample (s.bufByte (o + 3 * i + 1)) = true) := by
  rw [← Bool.not_eq_true, pathBreaks_iff]
  simp only [not_or, not_and, Bool.not_eq_true, Bool.not_eq_false]
  simp only [or_iff_not_imp_left, Bool.not_eq_true]

theorem exec_computeMatchingBits (o k : Nat) (f : Bool) (s : State) : exec (.computeMatchingBits o k f) s =
    runCommand (.computeMatchingBits o k f) s (if 56 < k then .raise .bitIndexRange
      else if s.cursor.toNat < o + 168 then .raise .bufferRange
      else .done (s.setResult (firstStop (s.pathBreaks o f) k (56 - k)))) := by
  simp only [exec, execComputeMatchingBits, not_bufInRange_iff, gt_iff_lt]

/-- RESULT of the scan does not wrap, and the scan ends at the first stop (rule R156). -/
theorem scanResult_spec (stop : Nat → Bool) {k r : Nat} (hk : k ≤ 56)
    (hr : r = (BitVec.ofNat 64 (firstStop stop k (56 - k))).toNat) :
    k ≤ r ∧ r ≤ 56 ∧ (∀ i, k ≤ i → i < r → stop i = false) ∧ (r < 56 → stop r = true) := by
  have hspec := firstStop_spec stop k (56 - k)
  rw [Nat.add_sub_cancel' hk] at hspec
  rw [BitVec.toNat_ofNat, Nat.mod_eq_of_lt (hspec.2.1.trans_lt (by decide))] at hr
  rwa [← hr] at hspec

/-- Settles O27: the bits before the first stop do not break the path, and a first stop below 56 does. -/
theorem computeMatchingBitsFindsTheFirstBreak : Obligations.ComputeMatchingBitsFindsTheFirstBreak := by
  refine ⟨fun s o k f hl => ?_, rejectsReservedBits .computeMatchingBits⟩
  obtain ⟨hdone, hfaults⟩ := bounded_outcomes hl (exec_computeMatchingBits o k f s)
  refine ⟨fun hk hr => ?_, hfaults⟩
  obtain ⟨hle, hge, hbefore, hat⟩ := scanResult_spec (s.pathBreaks o f) hk rfl
  exact ⟨_, hdone hk hr, rfl, hle, hge, fun i hlo hhi => (not_pathBreaks_iff s o f i).1 (hbefore i hlo hhi),
    fun hlt => (pathBreaks_iff s o f _).1 (hat hlt)⟩

/-! ### Reading back what the encoder wrote -/

theorem bufByte_of_read {s : State} {j : Nat} {b : Byte} (h : s.buf.read j = some b) : s.bufByte j = b := by
  rw [State.bufByte, h, Option.getD_some]

/-- The slots of `d` in BUF decode to `d` (rule R158). -/
theorem decodeBytes_of_encBytes {s : State} {o : Nat} {d : List Byte}
    (h : ∀ j, j < 8 * d.length → s.buf.read (o + j) = (encBytes d)[j]?) : s.decodeBytes o d.length = d := by
  refine List.ext_getElem? fun k => ?_
  by_cases hk : k < d.length
  · rw [decodeBytes_getElem? s o hk, List.getElem?_eq_getElem hk, State.decodeByte, ← byteOfBits_getLsbD d[k]]
    refine congrArg some (byteOfBits_congr fun j hj => ?_)
    have hread := h (8 * k + j) (by omega)
    rw [encBytes_getElem? d hj, List.getElem?_eq_getElem hk, ← Nat.add_assoc] at hread
    rw [State.sampleAt, bufByte_of_read hread, sample_enc]
  · rw [List.getElem?_eq_none (by rw [decodeBytes_length]; omega), List.getElem?_eq_none (by omega)]

/-- DECODE of the slots of `d` just appended writes `d` (rule R158). -/
theorem decode_appended_encBytes {s : State} {a : Nat} {d : List Byte} (ret : Nat) (hl : s.latch = none)
    (hr : a + d.length ≤ s.params.hmemSize) (room : s.cursor.toNat + 8 * d.length ≤ s.params.bufCap.toNat) :
    ∃ u, exec (.decode s.cursor.toNat a d.length) (s.appended (encBytes d) ret) = .next u ∧
      u.hmem.readAll a d.length = some d := by
  have hlen := encBytes_length d
  have hused : s.cursor.toNat + 8 * d.length ≤ (s.appended (encBytes d) ret).cursor.toNat := by
    rw [appended_cursor_toNat (by rwa [hlen]), hlen]
  have hread : (s.appended (encBytes d) ret).decodeBytes s.cursor.toNat d.length = d :=
    decodeBytes_of_encBytes fun j hj => appended_buf_inside (by rwa [hlen])
  have hdone := (bounded_outcomes (s := s.appended _ ret) hl (exec_decode s.cursor.toNat a d.length _)).1 hr hused
  rw [hread] at hdone
  exact ⟨_, hdone, (Memory.readAll_eq_some_iff _ a _ d).2 ⟨rfl, fun j hj => Memory.read_writeAll_inside s.hmem a d hj⟩⟩

/-- The probes of ADD_READ are the slots of 0xFF bytes (rule R128). -/
theorem encBytes_replicate_ones (n : Nat) : encBytes (List.replicate n 0xFF) = List.replicate (8 * n) 0x7F := by
  induction n with
  | zero => rfl
  | succ n ih =>
    calc encBytes (List.replicate (n + 1) 0xFF)
      _ = encByte 0xFF ++ encBytes (List.replicate n 0xFF) := rfl
      _ = List.replicate 8 0x7F ++ List.replicate (8 * n) 0x7F := by rw [ih]; rfl
      _ = List.replicate (8 * (n + 1)) 0x7F := by rw [List.replicate_append_replicate, Nat.add_comm, Nat.mul_succ]

/-- Both probes of a bit in an enum region just appended sample HIGH: no device has answered (rule R158). -/
theorem noAnswer_appended_enumRegion (s : State) (id : List Byte) (ret : Nat) {k : Nat} (hk : k ≤ 55) :
    (s.appended (encByte 0xF0 ++ enumRegion id) ret).hasZero (s.cursor.toNat + 8) k = false ∧
    (s.appended (encByte 0xF0 ++ enumRegion id) ret).hasOne (s.cursor.toNat + 8) k = false := by
  have hlen : (encByte 0xF0 ++ enumRegion id).length = 176 := by simp
  have hprobe (j : Nat) (hj : j < 2) :
      (s.appended (encByte 0xF0 ++ enumRegion id) ret).bufByte (s.cursor.toNat + 8 + 3 * k + j) = 0x7F := by
    have hslot : (enumRegion id)[3 * k + j]? = some 0x7F := by
      rw [enumRegion_getElem? id (by omega), if_neg (by omega)]
    refine bufByte_of_read ?_
    rw [Nat.add_assoc _ (3 * k), Nat.add_assoc, appended_buf_inside (by omega),
      List.getElem?_append_right (Nat.le_add_right 8 _), encByte_length, Nat.add_sub_cancel_left, hslot]
  exact ⟨congrArg (!sample ·) (hprobe 0 (by decide)), congrArg (!sample ·) (hprobe 1 (by decide))⟩

/-- ENUM_BIT_INFO of an enum region just appended reports nothing (rule R158). -/
theorem enumBitInfo_appended_enumRegion {s : State} {k : Nat} (id : List Byte) (ret : Nat) (hl : s.latch = none)
    (room : s.cursor.toNat + 176 ≤ s.params.bufCap.toNat) (hk : k ≤ 55) :
    ∃ u, exec (.enumBitInfo (s.cursor.toNat + 8) k) (s.appended (encByte 0xF0 ++ enumRegion id) ret) = .next u ∧
      u.result = 0 := by
  have hlen : (encByte 0xF0 ++ enumRegion id).length = 176 := by simp
  have hused : s.cursor.toNat + 8 + 168 ≤ (s.appended (encByte 0xF0 ++ enumRegion id) ret).cursor.toNat := by
    rw [appended_cursor_toNat (by rwa [hlen]), hlen]
  have hdone := (bounded_outcomes (s := s.appended _ ret) hl (exec_enumBitInfo (s.cursor.toNat + 8) k _)).1 hk hused
  obtain ⟨hzero, hone⟩ := noAnswer_appended_enumRegion s id ret hk
  rw [hzero, hone] at hdone
  exact ⟨_, hdone, rfl⟩

/-- Settles O28: ADD_READ appends the slots of 0xFF bytes, so one lemma covers both DECODEs; in the enum region both
probes are HIGH. -/
theorem unexchangedBufferDecodesToWhatWasWritten : Obligations.UnexchangedBufferDecodesToWhatWasWritten := by
  refine ⟨sample_enc, fun s a n a' d hl hr hr' room hd => ?_, fun s n a' hl hr room => ?_,
    fun s x k d hl hr room hd hk => ?_⟩
  · obtain rfl := Memory.readAll_length hd
    have hwrite := exec_of_append hl
      ((exec_addWrite a d.length s).trans (by rw [encodingBytes_of_written _ hr room hd])) (encBytes_length d) room
    obtain ⟨u, hdecode, hback⟩ := decode_appended_encBytes s.cursor.toNat hl hr' room
    exact ⟨_, u, hwrite, hdecode, hback⟩
  · have hread : exec (.addRead n) s = .next (s.appended (List.replicate (8 * n) 0x7F) s.cursor.toNat) :=
      exec_of_append hl rfl List.length_replicate room
    have hback := decode_appended_encBytes (a := a') (d := List.replicate n 0xFF) s.cursor.toNat hl
    rw [List.length_replicate, encBytes_replicate_ones] at hback
    obtain ⟨u, hdecode, hones⟩ := hback hr room
    exact ⟨_, u, hread, hdecode, hones⟩
  · have henum := exec_of_append hl
      ((exec_addEnumRom x s).trans (by rw [encodingBytes_of_written _ hr room hd])) (by simp) room
    obtain ⟨u, hinfo, hnothing⟩ := enumBitInfo_appended_enumRegion d (s.cursor.toNat + 8) hl room hk
    exact ⟨_, u, henum, hinfo, hnothing⟩

end Sys2Proof.Machine

/-! SUPPORT. The termination of SEARCH (45_rom_search.md rules R201 and R205): the parts of a search step end without a
recursion, and the level that the 0-branch goes on with is deeper, whatever the schedule and the BUS do. -/

namespace Sys2Proof.Machine

/-! ### Host procedures without a recursion bound -/

theorem HostRun.andThen_ne_exhausted {α β : Type} {r : HostRun α} {k : α → State → HostRun β} (hr : r ≠ .exhausted)
    (hk : ∀ a s, r = .ok a s → k a s ≠ .exhausted) : r.andThen k ≠ .exhausted := by
  cases r with
  | ok a s => exact hk a s rfl
  | exhausted => exact absurd rfl hr
  | _ => exact nofun

theorem awaitDone_ne_exhausted (n : Nat) (s : State) : awaitDone n s ≠ .exhausted := by
  induction n generalizing s with
  | zero => exact nofun
  | succ n ih =>
    rw [awaitDone]
    split
    · next t _ =>
      split
      · split <;> exact nofun
      · split
        · exact ih t
        · exact nofun
    · exact nofun
    · exact nofun

theorem issue_ne_exhausted (i : Instr) (s : State) : issue i s ≠ .exhausted := by
  rw [issue]
  split
  · exact nofun
  · exact awaitDone_ne_exhausted _ _

theorem issueAll_ne_exhausted (is : List Instr) (s : State) : issueAll is s ≠ .exhausted := by
  induction is generalizing s with
  | nil => exact nofun
  | cons i is ih => exact HostRun.andThen_ne_exhausted (issue_ne_exhausted i s) fun _ t _ => ih t

theorem hostStoreAll_ne_exhausted (a : Nat) (bs : List Byte) (s : State) : hostStoreAll a bs s ≠ .exhausted := by
  induction bs generalizing a s with
  | nil => exact nofun
  | cons b bs ih =>
    rw [hostStoreAll]
    split
    · next t _ => exact ih (a + 1) t
    · exact nofun
    · exact nofun

theorem searchTransaction_ne_exhausted (w : Nat) (u : Uuid) (s : State) : searchTransaction w u s ≠ .exhausted :=
  HostRun.andThen_ne_exhausted (hostStoreAll_ne_exhausted w u s) fun _ s1 _ =>
    HostRun.andThen_ne_exhausted (issueAll_ne_exhausted _ s1) fun _ s2 _ =>
      HostRun.andThen_ne_exhausted (issue_ne_exhausted _ s2) fun _ _ _ => nofun

/-! ### A command the HOST issued has been run by the BLOCK -/

/-- A command's step frees CMD, but for a held EXECUTE, which changes nothing. -/
theorem Ends.cmd_eq {s t : State} {i : Instr} (h : Ends s i t) : t.cmd = none ∨ t = s := by
  cases h with
  | held => exact .inr rfl
  | exchanged =>
    refine .inl ?_
    obtain he | ⟨rx, he, -⟩ := exchange_cases s.padded s.padded.busRequest
    · rw [transfer_transportError he]; rfl
    · rw [transfer_received he]; rfl
  | _ => exact .inl rfl

/-- The BLOCK's step frees CMD or leaves the word it holds. -/
theorem blockStep_cmd {s t : State} {w v : Word} (hc : s.cmd = some w) (h : blockStep s = .next t)
    (hv : t.cmd = some v) : v = w := by
  obtain ⟨hnone, -⟩ | ⟨w', -, ⟨i, -, hend⟩ | ⟨-, rfl⟩⟩ := blockStep_next h
  · simp [hnone] at hc
  · obtain hfree | rfl := hend.cmd_eq
    · simp [hfree] at hv
    · simpa [hc] using hv.symm
  · cases hf : s.faulted <;> simp [hf, State.enterFault] at hv

/-- A step from a busy block raises CMD_DONE only as the BLOCK's, and leaves no other word accepted. -/
theorem step_of_busy {s t : State} {w : Word} (hc : s.cmd = some w) (hd : s.cmdDone = false) (h : step s = .next t) :
    (t.cmdDone = true → ∃ r, r.cmd = some w ∧ blockStep r = .next t) ∧ ∀ v, t.cmd = some v → v = w := by
  cases step_next h with
  | @block ms _ _ hb =>
    exact ⟨fun _ => ⟨{ s with moves := ms }, hc, hb⟩, fun _ => blockStep_cmd (s := { s with moves := ms }) hc hb⟩
  | clock => exact ⟨fun hdone => by simp [State.advanceClock, hd] at hdone, fun v hv => by
      simpa [State.advanceClock, hc] using hv.symm⟩
  | reset => exact ⟨fun hdone => (nomatch hdone), fun _ hv => (nomatch hv)⟩
  | hostWrite _ hidle | accept _ hidle => simp [hidle] at hc

theorem awaitDone_ok {n : Nat} {s t : State} {w : Word} (hc : s.cmd = some w) (hd : s.cmdDone = false)
    (h : awaitDone n s = .ok () t) : t.latch = none ∧ ∃ r, r.cmd = some w ∧ blockStep r = .next t := by
  induction n generalizing s with
  | zero => cases h
  | succ n ih =>
    rw [awaitDone] at h
    split at h
    · next u hu =>
      obtain ⟨hdone, hword⟩ := step_of_busy hc hd hu
      split at h
      · next hud =>
        split at h
        · cases h
        · next hl => cases h; exact ⟨hl, hdone hud⟩
      · next hud =>
        split at h
        · next hsome =>
          obtain ⟨v, hv⟩ := Option.isSome_iff_exists.1 hsome
          exact ih (hword v hv ▸ hv) (Bool.eq_false_iff.2 hud) h
        · cases h
    · cases h
    · cases h

/-- A command that the HOST issued completes as the BLOCK's step, with no fault latched. -/
theorem issue_ok {i : Instr} {s t : State} (h : issue i s = .ok () t) :
    t.latch = none ∧ ∃ r, r.cmd = some (encode i) ∧ blockStep r = .next t := by
  rw [issue] at h
  split at h
  · cases h
  · exact awaitDone_ok rfl rfl h

/-! ### Depth -/

/-- A command discarded under a latched fault leaves it latched (rule R223). -/
theorem latch_of_runCommand_next {i : Instr} {s t : State} {e : Effect} (h : runCommand i s e = .next t)
    (ht : t.latch = none) : s.latch = none := by
  obtain ⟨-, rfl⟩ | ⟨hf, -⟩ := runCommand_next h
  · exact ht
  · exact (not_faulted_iff s).1 hf

/-- COMPUTE_MATCHING_BITS, where it ends with no fault latched, reports a bit from `k` to 56. -/
theorem computeMatchingBits_result {o k : Nat} {f : Bool} {s t : State} (hk : k ≤ 56)
    (h : exec (.computeMatchingBits o k f) s = .next t) (ht : t.latch = none) :
    k ≤ t.result.toNat ∧ t.result.toNat ≤ 56 := by
  have hrun := exec_computeMatchingBits o k f s
  obtain ⟨hdone, -, hshort⟩ := bounded_outcomes (latch_of_runCommand_next (hrun.symm.trans h) ht) hrun
  obtain hr | hr := Nat.lt_or_ge s.cursor.toNat (o + 168)
  · cases h.symm.trans (hshort hk hr)
    cases ht
  · cases h.symm.trans (hdone hk hr)
    obtain ⟨hlo, hhi, -⟩ := scanResult_spec (s.pathBreaks o f) hk rfl
    exact ⟨hlo, hhi⟩

/-- The word keeps the low 16 bits of the offset (rule R81). -/
theorem decodeWord_encode_computeMatchingBits (o : Nat) {k : Nat} (hk : k ≤ 56) (f : Bool) :
    decodeWord (encode (.computeMatchingBits o k f)) = .command (.computeMatchingBits (o % 2 ^ 16) k f) := by
  have hword : encode (.computeMatchingBits o k f) = encode (.computeMatchingBits (o % 2 ^ 16) k f) := by
    simp only [encode, Instr.opcode, Instr.operandBits, place, Nat.mod_mod]
  have hoffset : fits 16 (o % 2 ^ 16) = true := decide_eq_true (Nat.mod_lt o (by decide))
  have hbit : fits 8 k = true := decide_eq_true (hk.trans_lt (by decide))
  rw [hword, decodeWord_encode (by rw [Instr.wellFormed, hoffset, hbit]; rfl)]

theorem issue_computeMatchingBits_result {o k : Nat} {f : Bool} {s t : State} (hk : k ≤ 56)
    (h : issue (.computeMatchingBits o k f) s = .ok () t) : k ≤ t.result.toNat ∧ t.result.toNat ≤ 56 := by
  obtain ⟨hl, r, hc, hb⟩ := issue_ok h
  rw [blockStep_command hc (decodeWord_encode_computeMatchingBits o hk f)] at hb
  exact computeMatchingBits_result hk hb hl

/-- Settles O59: by induction on the bound; each branch goes on at a depth above `d` and at most 55. -/
theorem searchNeverExhaustsItsDepth : Obligations.SearchNeverExhaustsItsDepth := by
  intro w fuel u d s hd hfuel
  induction fuel generalizing u d s with
  | zero => omega
  | succ fuel ih =>
    rw [search]
    refine HostRun.andThen_ne_exhausted (searchTransaction_ne_exhausted w u s) fun e s1 _ =>
      HostRun.andThen_ne_exhausted (issue_ne_exhausted _ s1) fun _ s2 _ =>
      HostRun.andThen_ne_exhausted ?_ fun zeros s4 _ => ?_
    · split
      · refine HostRun.andThen_ne_exhausted (issue_ne_exhausted _ s2) fun _ s3 hscan => ?_
        obtain ⟨hlo, hhi⟩ := issue_computeMatchingBits_result (by omega) hscan
        split
        · exact nofun
        · exact ih u _ s3 (by omega) (by omega)
      · exact nofun
    · split
      · split
        · exact nofun
        · exact HostRun.andThen_ne_exhausted (ih _ _ s4 (by omega) (by omega)) fun _ _ _ => nofun
      · exact nofun

end Sys2Proof.Machine

/-! SUPPORT. Bus exchange, timing and registers (44_bus_timing.md): the state EXECUTE leaves after an answered and a
failed exchange, the end of a pause, what sets the strong pull-up, RDREG, and the host procedure BUS_RESET. -/

namespace Sys2Proof.Machine

/-! ### EXECUTE -/

@[simp] theorem padded_spiHz (s : State) : s.padded.spiHz = s.spiHz := by rw [padded_eq]

/-- Padding puts idle bytes from CURSOR up to MIN_XFER (rule R181). -/
theorem padded_bufByte (s : State) {j : Nat} (hj : j < s.padded.cursor.toNat) :
    s.padded.bufByte j = if j < s.cursor.toNat then s.bufByte j else 0xFF := by
  rw [padded_cursor_toNat] at hj
  rw [State.bufByte, padded_buf]
  split
  · next hlt => rw [Memory.read_writeAll_outside _ _ _ (.inl hlt), State.bufByte]
  · next hge =>
    rw [Memory.read_writeAll, List.length_replicate, if_pos (by omega), List.getElem?_replicate_of_lt (by omega),
      Option.getD_some]

theorem padded_tx_getElem? (s : State) {j : Nat} (hj : j < s.padded.cursor.toNat) :
    s.padded.busRequest.tx[j]? =
      some ((if j < s.cursor.toNat then s.bufByte j else 0xFF) ^^^ (if s.invertTx then 0xFF else 0x00)) := by
  rw [← padded_bufByte s hj, ← padded_invertTx s]
  simp only [State.busRequest, State.txBytes, List.getElem?_map, List.getElem?_range hj, Option.map_some]
  rfl

/-- As many bytes as are sent, stored from offset 0, are BUF below the padded CURSOR (rule R181). -/
theorem read_stored_inside (s : State) {bs : List Byte} (hlen : bs.length = s.padded.cursor.toNat) {j : Nat}
    (hj : j < s.padded.cursor.toNat) : (s.padded.buf.writeAll 0 bs).read j = bs[j]? := by
  have hread := Memory.read_writeAll_inside s.padded.buf 0 bs (hlen ▸ hj)
  rwa [Nat.zero_add] at hread

/-- BUF above them is as it was before the padding. -/
theorem read_stored_above (s : State) {bs : List Byte} (hlen : bs.length = s.padded.cursor.toNat) {a : Nat}
    (ha : s.padded.cursor.toNat ≤ a) : (s.padded.buf.writeAll 0 bs).read a = s.buf.read a := by
  rw [Memory.read_writeAll_outside _ _ _ (by omega), padded_buf]
  rw [padded_cursor_toNat] at ha
  exact Memory.read_writeAll_outside _ _ _ (by rw [List.length_replicate]; omega)

/-- EXECUTE up to its exchange: padding, the released pull-up, and the exchange in the BUS agent's history. -/
theorem padded_sent (s : State) : s.padded.sent = { s with
    buf := s.padded.buf
    cursor := s.padded.cursor
    spuEngaged := false
    busAnswers := s.busAnswers.tail
    busLog := s.busLog ++ [{ request := s.padded.busRequest, answer := s.exchange s.padded.busRequest }] } := by
  rw [padded_eq]; rfl

/-- The state in which EXECUTE completes when its exchange receives `rx` (rule R181). -/
def State.exchanged (s : State) (rx : List Byte) : State := { s with
  buf := s.padded.buf.writeAll 0 rx
  cursor := s.padded.cursor
  result := BitVec.ofNat 64 s.padded.cursor.toNat
  spuEngaged := false
  cmd := none
  cmdDone := true
  busAnswers := s.busAnswers.tail
  busLog := s.busLog ++ [{ request := s.padded.busRequest, answer := .received rx }] }

section
variable {s : State} {rx : List Byte}

theorem exec_execute_answered (hl : s.latch = none) (hfit : s.PaddingFits) (hp : s.pausedUntil.toNat ≤ s.now.toNat)
    (hex : s.exchange s.padded.busRequest = .received rx) : exec .execute s = .next (s.exchanged rx) := by
  rw [exec_execute_exchanges hl hfit hp, transfer_received ((padded_exchange s _).trans hex), padded_sent, hex]
  rfl

theorem answer_length (hex : s.exchange s.padded.busRequest = .received rx) : rx.length = s.padded.cursor.toNat :=
  (received_length hex).trans (txBytes_length _)

theorem exchanged_result_toNat : (s.exchanged rx).result.toNat = s.padded.cursor.toNat :=
  (BitVec.toNat_ofNat ..).trans (Nat.mod_eq_of_lt (s.padded.cursor.isLt.trans (by decide)))

end

/-- Settles O38: the request is that of the padded buffer, and `State.exchanged` is the state described. -/
theorem executeExchangesTheBuffer : Obligations.ExecuteExchangesTheBuffer := by
  refine ⟨fun s rx n hl hn hfit hp hex => ?_, fun s hl => execute_overflows hl, rejectsReservedBits .execute⟩
  obtain rfl : n = s.padded.cursor.toNat := hn.trans (padded_cursor_toNat s).symm
  have hlen := answer_length hex
  exact ⟨hlen, txBytes_length _, padded_spiHz s, fun j hj => padded_tx_getElem? s hj, _,
    exec_execute_answered hl hfit hp hex, rfl, rfl, exchanged_result_toNat,
    fun j hj => read_stored_inside s hlen hj, fun a ha => read_stored_above s hlen ha⟩

/-- A failed exchange leaves arbitrary bytes where it had sent some, and keeps the padding and the released pull-up
(rule R184). -/
theorem exec_execute_failed {s : State} (hl : s.latch = none) (hfit : s.PaddingFits)
    (hp : s.pausedUntil.toNat ≤ s.now.toNat) (hex : s.exchange s.padded.busRequest = .transportError) :
    exec .execute s = .next { s with
      buf := s.padded.buf.writeAll 0 (garbage s.padded.cursor.toNat s.padded.busLog s.padded.busRequest)
      cursor := s.padded.cursor
      spuEngaged := false
      latch := some { code := .transportError, op := 0x40 }
      faultLog := s.faultLog ++ [(.transportError, 0x40)]
      cmd := none
      cmdDone := true
      busAnswers := s.busAnswers.tail
      busLog := s.busLog ++ [{ request := s.padded.busRequest, answer := .transportError }] } := by
  rw [exec_execute_exchanges hl hfit hp, transfer_transportError ((padded_exchange s _).trans hex), padded_sent, hex]
  rfl

/-- Settles O40: the arbitrary bytes stored are as many as were sent. -/
theorem executeTransportErrorIsLatched : Obligations.ExecuteTransportErrorIsLatched := by
  intro s hl hfit hp hex
  have hlen := garbage_length s.padded.cursor.toNat s.padded.busLog s.padded.busRequest
  refine ⟨_, exec_execute_failed hl hfit hp hex, rfl, padded_cursor_toNat s, fun j hj => ?_,
    fun a ha => read_stored_above s hlen ha⟩
  rw [read_stored_inside s hlen hj, List.getElem?_eq_getElem (hlen.symm ▸ hj)]
  rfl

/-! ### PAUSE -/

/-- The end of the pause that PAUSE `t` leaves: the later of the old one and `t` from NOW, saturated (rule R185). -/
def State.pauseEnd (s : State) (t : Nat) : Nat := max s.pausedUntil.toNat (sat64 (s.now.toNat + t))

/-- The state in which PAUSE completes (rules R185 and R186). -/
def State.paused (s : State) (t : Nat) : State :=
  ({ s with
    pausedUntil := BitVec.ofNat 64 (s.pauseEnd t)
    spuEngaged := s.hasStrongPullUp || s.spuEngaged }.setResult (s.pauseEnd t)).complete

theorem exec_pause {s : State} (hl : s.latch = none) (t : Nat) : exec (.pause t) s = .next (s.paused t) :=
  exec_of_done hl rfl

theorem toNat_ofNat_pauseEnd (s : State) (t : Nat) : (BitVec.ofNat 64 (s.pauseEnd t)).toNat = s.pauseEnd t := by
  have hold := s.pausedUntil.isLt
  rw [BitVec.toNat_ofNat, Nat.mod_eq_of_lt]
  unfold State.pauseEnd sat64
  omega

theorem hasStrongPullUp_iff (s : State) : s.hasStrongPullUp = true ↔ s.params.spuMode ≠ .none := bne_iff_ne

/-- Settles O41: the old pause end is a word, so the saturated maximum is one too. -/
theorem pauseExtendsThePause : Obligations.PauseExtendsThePause := by
  refine ⟨fun s t hl => ⟨_, exec_pause hl t, rfl, toNat_ofNat_pauseEnd s t, rfl, ?_⟩,
    rejectsReservedBits .pause⟩
  change (s.hasStrongPullUp || s.spuEngaged) = _
  split
  · next hnone => rw [Bool.eq_false_iff.2 (mt (hasStrongPullUp_iff s).1 (not_not.2 hnone)), Bool.false_or]
  · next hpin => rw [(hasStrongPullUp_iff s).2 hpin, Bool.true_or]

@[simp] theorem padded_pausedUntil (s : State) : s.padded.pausedUntil = s.pausedUntil := by rw [padded_eq]

/-- Whatever the BUS answers, the exchange leaves the pause and has released the pull-up (rule R182). -/
theorem transfer_pausedUntil_spuEngaged (s : State) :
    s.transfer.pausedUntil = s.pausedUntil ∧ s.transfer.spuEngaged = false := by
  obtain he | ⟨rx, he, -⟩ := exchange_cases s s.busRequest
  · rw [transfer_transportError he]; exact ⟨rfl, rfl⟩
  · rw [transfer_received he]; exact ⟨rfl, rfl⟩

theorem Ran.pausedUntil_le {s t : State} {i : Instr} (h : Ran s i t) : s.pausedUntil.toNat ≤ t.pausedUntil.toNat := by
  cases h with
  | pause d hu => subst hu; exact (le_max_left ..).trans (toNat_ofNat_pauseEnd s d).ge
  | _ => exact le_rfl

theorem Ends.pausedUntil_le {s t : State} {i : Instr} (h : Ends s i t) :
    s.pausedUntil.toNat ≤ t.pausedUntil.toNat := by
  cases h with
  | ran hran => exact hran.pausedUntil_le
  | exchanged => rw [(transfer_pausedUntil_spuEngaged _).1, padded_pausedUntil]
  | discarded | raised | held => exact le_rfl

theorem blockStep_pausedUntil_le {s t : State} (h : blockStep s = .next t) :
    s.pausedUntil.toNat ≤ t.pausedUntil.toNat := by
  obtain ⟨-, rfl⟩ | ⟨w, -, ⟨i, -, hi⟩ | ⟨-, rfl⟩⟩ := blockStep_next h
  · exact le_rfl
  · exact hi.pausedUntil_le
  · split <;> exact le_rfl

/-- A PAUSE shorter than the one just made ends within it. -/
theorem pauseEnd_paused_of_lt (s : State) {d1 d2 : Nat} (h : d2 < d1) : (s.paused d1).pauseEnd d2 = s.pauseEnd d1 := by
  have hmade : (s.paused d1).pausedUntil.toNat = s.pauseEnd d1 := toNat_ofNat_pauseEnd s d1
  have hnow : (s.paused d1).now = s.now := rfl
  rw [State.pauseEnd, hmade, hnow]
  unfold State.pauseEnd sat64
  omega

/-- Settles O42: only PAUSE and RST write PAUSED_UNTIL, and PAUSE takes a maximum. -/
theorem pauseIsMonotone : Obligations.PauseIsMonotone := by
  refine ⟨fun s t hnoreset hstep => ?_, fun s t d1 d2 hl h1 hlt => ?_⟩
  · cases step_next hstep with
    | block _ ht =>
      have hle := blockStep_pausedUntil_le ht
      exact hle
    | reset hm => exact absurd hm (hnoreset _)
    | clock | hostWrite | accept => exact le_rfl
  · cases (exec_pause hl d1).symm.trans h1
    exact ⟨_, exec_pause (s := s.paused d1) hl d2, congrArg (BitVec.ofNat 64) (pauseEnd_paused_of_lt s hlt)⟩

/-! ### The strong pull-up -/

/-- The command sets SPU.ENGAGED to `after` when it runs, where it was `before` and `pin` says whether there is a strong
pull-up (rules R182 and R186). -/
inductive Instr.SetsPullUp (pin before after : Bool) : Instr → Prop where
  | pause (d : Nat) (h : after = (pin || before)) : SetsPullUp pin before after (.pause d)
  | execute (h : after = false) : SetsPullUp pin before after .execute

theorem Ran.setsPullUp {s t : State} {i : Instr} (h : Ran s i t) (hne : t.spuEngaged ≠ s.spuEngaged) :
    Instr.SetsPullUp s.hasStrongPullUp s.spuEngaged t.spuEngaged i := by
  cases h with
  | pause d => exact .pause d rfl
  | _ => exact absurd rfl hne

theorem Ends.setsPullUp {s t : State} {i : Instr} (h : Ends s i t) (hne : t.spuEngaged ≠ s.spuEngaged) :
    Instr.SetsPullUp s.hasStrongPullUp s.spuEngaged t.spuEngaged i := by
  cases h with
  | ran hran => exact hran.setsPullUp hne
  | exchanged => exact .execute (transfer_pausedUntil_spuEngaged _).2
  | discarded | raised | held => exact absurd rfl hne

/-- The BLOCK changes SPU.ENGAGED only by running an accepted command that sets it. -/
theorem blockStep_setsPullUp {s t : State} (h : blockStep s = .next t) (hne : t.spuEngaged ≠ s.spuEngaged) :
    ∃ w i, s.cmd = some w ∧ decodeWord w = .command i ∧
      Instr.SetsPullUp s.hasStrongPullUp s.spuEngaged t.spuEngaged i := by
  obtain ⟨-, rfl⟩ | ⟨w, hc, ⟨i, hd, hi⟩ | ⟨-, rfl⟩⟩ := blockStep_next h
  · exact absurd rfl hne
  · exact ⟨w, i, hc, hd, hi.setsPullUp hne⟩
  · exact absurd (by split <;> rfl) hne

/-- A step changes SPU.ENGAGED only as RST, which releases the pull-up, or by an accepted command that sets it. -/
theorem step_setsPullUp {s t : State} (h : step s = .next t) (hne : t.spuEngaged ≠ s.spuEngaged) :
    (t.spuEngaged = false ∧ ∃ ms, s.moves = .reset :: ms) ∨
      ∃ w i, s.cmd = some w ∧ decodeWord w = .command i ∧
        Instr.SetsPullUp s.hasStrongPullUp s.spuEngaged t.spuEngaged i := by
  cases step_next h with
  | block _ ht =>
    have hset := blockStep_setsPullUp ht hne
    exact .inr hset
  | reset hm => exact .inl ⟨rfl, _, hm⟩
  | clock | hostWrite | accept => exact absurd rfl hne

/-- Settles O43: RST and EXECUTE set SPU.ENGAGED to 0, and PAUSE to 1 where there is a pull-up or it was 1 already. -/
theorem onlyPauseEngagesThePullUp : Obligations.OnlyPauseEngagesThePullUp := by
  intro s t hstep
  refine ⟨fun hoff hon => ?engage, fun hon hoff => ?release⟩
  case engage =>
    obtain ⟨hrst, -⟩ | ⟨w, i, hc, hd, hset⟩ := step_setsPullUp hstep (by simp [hon, hoff])
    · simp [hon] at hrst
    · cases hset with
      | pause d h => exact ⟨(hasStrongPullUp_iff s).1 (by simpa [hon, hoff] using h), w, d, hc, hd⟩
      | execute h => simp [hon] at h
  case release =>
    obtain ⟨-, hreset⟩ | ⟨w, i, hc, hd, hset⟩ := step_setsPullUp hstep (by simp [hon, hoff])
    · exact .inl hreset
    · cases hset with
      | pause d h => simp [hon, hoff] at h
      | execute => exact .inr ⟨w, hc, hd⟩

/-- Settles O44: the rows of the table, each with the two values of SPU.ENGAGED. -/
theorem pullUpPinFollowsModeAndEngaged : Obligations.PullUpPinFollowsModeAndEngaged := by
  intro s
  refine ⟨fun hm => ?_, fun hm => ?_, fun hm => ?_, fun hm => ?_⟩ <;>
    · rw [State.spuPin, hm]
      cases s.spuEngaged <;> rfl

/-! ### RDREG -/

theorem exec_rdreg_value {r : Nat} {reg : RegName} {s : State} {v : Word} (hreg : regOfNumber r = some reg)
    (hv : BitVec.ofNat 64 (s.regValue reg) = v) :
    exec (.rdreg r) s = .next { s with result := v, cmd := none, cmdDone := true } := by
  rw [exec_rdreg hreg, State.setResult, State.complete, hv]

theorem RegName.number_le (reg : RegName) : reg.number ≤ 0x0B := by cases reg <;> decide

theorem regOfNumber_eq_none {r : Nat} (h : 0x0B < r) : regOfNumber r = none :=
  Option.eq_none_iff_forall_ne_some.2 fun reg hreg =>
    (number_of_regOfNumber hreg ▸ h).not_ge reg.number_le

/-- Settles O45: the registers in the order of their numbers; SPEED and SPU case by case. -/
theorem rdregCopiesTheRegister : Obligations.RdregCopiesTheRegister := by
  have hwide (x : Word) : BitVec.ofNat 64 x.toNat = x := by rw [BitVec.ofNat_toNat, BitVec.setWidth_eq]
  refine ⟨fun s => ⟨exec_rdreg_value rfl rfl, exec_rdreg_value rfl (BitVec.ofNat_toNat ..),
    exec_rdreg_value rfl (BitVec.ofNat_toNat ..), exec_rdreg_value rfl (hwide _), exec_rdreg_value rfl ?speed,
    exec_rdreg_value rfl ?spu, exec_rdreg_value rfl ?polarity, exec_rdreg_value rfl (BitVec.ofNat_toNat ..),
    exec_rdreg_value rfl (hwide _), exec_rdreg_value rfl (BitVec.ofNat_toNat ..),
    exec_rdreg_value rfl (BitVec.ofNat_toNat ..), exec_rdreg_value rfl (hwide _), fun r hr hl => ?reserved⟩,
    rejectsReservedBits .rdreg⟩
  case speed =>
    rw [State.regValue]
    cases s.speedSel <;> cases s.params.maxSpeed <;> rfl
  case spu =>
    rw [State.regValue]
    cases s.params.spuMode <;> cases s.spuEngaged <;> rfl
  case polarity =>
    rw [State.regValue]
    cases s.invertTx <;> rfl
  case reserved => exact faultsWith_of_raise hl (by simp only [exec, execRdreg, regOfNumber_eq_none hr])

/-! ### BUS_RESET -/

/-- A settled answer is the next exchange's, cut or filled to the bytes sent (rule R180). -/
theorem exchange_settled {s : State} {rx : List Byte} (h : s.busAnswers.head? = some (.received rx)) (r : BusRequest) :
    s.exchange r = .received (fitAnswer r.tx.length s.busLog r rx) := by
  obtain ⟨as, hs⟩ := List.head?_eq_some_iff.1 h
  rw [State.exchange, hs]

theorem fitAnswer_getElem? {k j : Nat} (hk : j < k) (log : List BusRecord) (r : BusRequest) {rx : List Byte}
    (hj : j < rx.length) : (fitAnswer k log r rx)[j]? = some (rx.getD j 0) := by
  rw [fitAnswer, List.getElem?_map, List.getElem?_range hk, Option.map_some, List.getD_eq_getElem _ _ hj,
    List.getD_eq_getElem _ _ hj]

theorem accept_padded (s : State) (w : Word) : (s.accept w).padded = s.padded.accept w := by
  rw [padded_eq, padded_eq]; rfl

/-- The handshake leaves no trace in the state in which EXECUTE completes. -/
theorem accept_exchanged (s : State) (w : Word) (rx : List Byte) : (s.accept w).exchanged rx = s.exchanged rx := by
  rw [State.exchanged, accept_padded]; rfl

theorem issue_execute_answered {s : State} {rx : List Byte} (hs : s.Idle) (hfit : s.PaddingFits)
    (hp : s.pausedUntil.toNat ≤ s.now.toNat) (hex : s.exchange s.padded.busRequest = .received rx) :
    issue .execute s = .ok () (s.exchanged rx) := by
  have hrun := exec_execute_answered (s := s.accept (encode .execute)) hs.latch hfit hp
    (by rw [accept_padded]; exact hex)
  rw [accept_exchanged] at hrun
  exact issue_of_exec rfl hs.cmd hs.moves hrun rfl hs.latch

theorem State.Idle.exchanged {s : State} (h : s.Idle) (rx : List Byte) : (s.exchanged rx).Idle :=
  ⟨h.latch, rfl, h.moves⟩

/-- SAMPLE issued by the HOST puts the level of a byte below CURSOR into RESULT (rule R153). -/
theorem issue_sample {s : State} {o : Nat} (hs : s.Idle) (ho : o < 65536) (hr : o + 1 ≤ s.cursor.toNat) :
    ∃ t, issue (.sample o) s = .ok () t ∧ t.result = if sample (s.bufByte o) then 1 else 0 := by
  obtain ⟨hsample, -⟩ := sampleReportsTheLevel
  obtain ⟨hlevel, -⟩ := hsample (s.accept (encode (.sample o))) o hs.latch
  refine ⟨_, issue_of_exec (decide_eq_true ho) hs.cmd hs.moves (hlevel hr) rfl hs.latch, ?_⟩
  simp only [sample, beq_iff_eq]
  rfl

/-- EXECUTE with a settled answer and then SAMPLE of a byte that was sent report that byte's level in the answer. -/
theorem issueAll_execute_sample {s : State} {rx : List Byte} {o : Nat} (hs : s.Idle) (hfit : s.PaddingFits)
    (hp : s.pausedUntil.toNat ≤ s.now.toNat) (hans : s.busAnswers.head? = some (.received rx)) (ho : o < rx.length)
    (hsent : o < s.padded.cursor.toNat) :
    ∃ t, issueAll [.execute, .sample o] s = .ok () t ∧ t.result = if sample (rx.getD o 0) then 1 else 0 := by
  have hex := exchange_settled hans s.padded.busRequest
  have hbyte : (s.exchanged (fitAnswer s.padded.busRequest.tx.length s.busLog s.padded.busRequest rx)).bufByte o =
      rx.getD o 0 :=
    bufByte_of_read ((read_stored_inside s (answer_length hex) hsent).trans
      (fitAnswer_getElem? (hsent.trans_eq (txBytes_length _).symm) _ _ ho))
  obtain ⟨t, hsample, hresult⟩ := issue_sample (hs.exchanged _) (hsent.trans s.padded.cursor.isLt) hsent
  refine ⟨t, ?_, hbyte ▸ hresult⟩
  exact (issueAll_cons_of_ok (issue_execute_answered hs hfit hp hex)).trans (issueAll_cons_of_ok hsample)

/-- Settles O49: CLEAR and ADD_RESET leave 11 bytes to send, so byte 8 is among them, where SAMPLE reads its answer. -/
theorem busResetReportsPresence : Obligations.BusResetReportsPresence := by
  intro s rx hl hc hm hcap hmin hp hans hrx
  have hs : s.Idle := ⟨hl, hc, hm⟩
  have hreset : issue .addReset s.cleared = .ok () (s.cleared.appended resetPattern 8) :=
    issue_of_append hs.cleared rfl rfl rfl (show 0 + 11 ≤ s.params.bufCap.toNat by omega)
  have hsent : 8 < (s.cleared.appended resetPattern 8).padded.cursor.toNat := by
    rw [padded_cursor_toNat]
    exact lt_max_of_lt_left (by decide : 8 < 11)
  obtain ⟨t, hrest, hresult⟩ :=
    issueAll_execute_sample (hs.cleared.appended resetPattern 8) (fun _ => hmin) hp hans hrx hsent
  refine ⟨t, ?_⟩
  rw [busReset, Pseudo.expand, issueAll_cons_of_ok (issue_clear hs), issueAll_cons_of_ok hreset, hrest,
    HostRun.andThen, hresult]
  cases sample (rx.getD 8 0) <;> rfl

end Sys2Proof.Machine

/-! SUPPORT. Fault entry, discarding and RST (60_exceptions.md rules R222 to R226, 70_reset_and_hazards.md rules R250 and
R251): what the pseudocode of a command does to the fault latch, and from it what a BLOCK step does. -/

namespace Sys2Proof.Machine

/-! ### How the pseudocode of a command faults -/

/-- The pseudocode of a command leaves the latch and fault_log when it runs to its end, and writes nothing when it
raises; TRANSPORT_ERROR, the fault that does write (rule R222), is left to EXECUTE's exchange. -/
def Effect.FaultsPrecisely (s : State) (i : Instr) : Effect → Prop
  | .done u => u.latch = s.latch ∧ u.faultLog = s.faultLog
  | .raise c => c ≠ .transportError
  | .hold | .unwritten => True
  | .settled t => i = .execute ∧ t = s.padded.transfer

section
variable {s : State} {i : Instr}

theorem Effect.faultsPrecisely_done {u : State} (hl : u.latch = s.latch) (hlog : u.faultLog = s.faultLog) :
    (Effect.done u).FaultsPrecisely s i := ⟨hl, hlog⟩

theorem Effect.faultsPrecisely_raise {c : FaultCode} (hc : c ≠ .transportError) :
    (Effect.raise c).FaultsPrecisely s i := hc

/-- A guard of the pseudocode keeps the property of what follows it. -/
theorem Effect.faultsPrecisely_guard {p : Prop} [Decidable p] {c : FaultCode} {e : Effect}
    (h : e.FaultsPrecisely s i) (hc : c ≠ .transportError := by decide) :
    (if p then Effect.raise c else e).FaultsPrecisely s i := by
  split
  · exact hc
  · exact h

theorem append_faultsPrecisely {k ret : Nat} {bs : List Byte} : (append s k bs ret).FaultsPrecisely s i :=
  Effect.faultsPrecisely_guard (Effect.faultsPrecisely_done rfl rfl)

theorem readingBytes_faultsPrecisely {a n : Nat} {f : List Byte → Effect} (h : ∀ d, (f d).FaultsPrecisely s i) :
    (s.readingBytes a n f).FaultsPrecisely s i := by
  refine Effect.faultsPrecisely_guard ?_
  split
  · trivial
  · exact h _

theorem encodingBytes_faultsPrecisely {a n k ret : Nat} {slots : List Byte → List Byte} :
    (s.encodingBytes a n k slots ret).FaultsPrecisely s i := by
  refine Effect.faultsPrecisely_guard (Effect.faultsPrecisely_guard ?_)
  split
  · trivial
  · exact append_faultsPrecisely

theorem writeReg_faultsPrecisely (reg : RegName) (v : BitVec 48) : (writeReg reg v s).FaultsPrecisely s i := by
  cases reg with
  | speed =>
    exact Effect.faultsPrecisely_guard (Effect.faultsPrecisely_guard (Effect.faultsPrecisely_done rfl rfl))
  | polarity | minXfer | crcAcc => exact Effect.faultsPrecisely_guard (Effect.faultsPrecisely_done rfl rfl)
  | _ => exact Effect.faultsPrecisely_raise (by decide)

end

/-- Every command but RDREG and FAULT_ACK is discarded while a fault is latched (rule R223), and with none latched ends
as a pseudocode that faults precisely. -/
theorem exec_eq_runCommand (i : Instr) (s : State) (hread : ∀ r, i ≠ .rdreg r) (hack : i ≠ .faultAck) :
    ∃ e : Effect, exec i s = runCommand i s e ∧ e.FaultsPrecisely s i := by
  cases i with
  | clear | crcByte | pause => exact ⟨_, rfl, Effect.faultsPrecisely_done rfl rfl⟩
  | addPattern | addPatternT | addReset | addRead | addCommand => exact ⟨_, rfl, append_faultsPrecisely⟩
  | addWrite a n => exact ⟨_, exec_addWrite a n s, encodingBytes_faultsPrecisely⟩
  | addMatchRom u => exact ⟨_, exec_addMatchRom u s, encodingBytes_faultsPrecisely⟩
  | addEnumRom u => exact ⟨_, exec_addEnumRom u s, encodingBytes_faultsPrecisely⟩
  | sample => exact ⟨_, rfl, Effect.faultsPrecisely_guard (Effect.faultsPrecisely_done rfl rfl)⟩
  | decode | enumBitInfo | computeMatchingBits =>
    exact ⟨_, rfl,
      Effect.faultsPrecisely_guard (Effect.faultsPrecisely_guard (Effect.faultsPrecisely_done rfl rfl))⟩
  | crcCalc a n =>
    exact ⟨_, exec_crcCalc a n s, readingBytes_faultsPrecisely fun _ => Effect.faultsPrecisely_done rfl rfl⟩
  | romCheck a =>
    exact ⟨_, exec_romCheck a s, readingBytes_faultsPrecisely fun _ =>
      Effect.faultsPrecisely_guard (Effect.faultsPrecisely_done rfl rfl)⟩
  | bitGet | bitSet =>
    refine ⟨_, rfl, Effect.faultsPrecisely_guard (Effect.faultsPrecisely_guard ?_)⟩
    split
    · trivial
    · exact Effect.faultsPrecisely_done rfl rfl
  | execute =>
    refine ⟨_, rfl, Effect.faultsPrecisely_guard ?_⟩
    split
    · trivial
    · exact ⟨rfl, rfl⟩
  | wrreg =>
    refine ⟨_, rfl, ?_⟩
    split
    · exact Effect.faultsPrecisely_raise (by decide)
    · exact writeReg_faultsPrecisely _ _
  | rdreg r => exact absurd rfl (hread r)
  | faultAck => exact absurd rfl hack

/-! ### While a fault is latched -/

theorem exec_rdreg_reserved {r : Nat} (h : regOfNumber r = none) (s : State) :
    exec (.rdreg r) s = runCommand (.rdreg r) s (.raise .illegalRegister) := by
  simp only [exec, execRdreg, h]

/-- A word that is no command is discarded while a fault is latched (rule R223). -/
theorem step_illegal_faulted {s : State} {l : FaultLatch} {w : Word} {why : Illegal} (hl : s.latch = some l)
    (hc : s.cmd = some w) (hd : decodeWord w = .illegal why) (hm : s.moves = []) : step s = .next s.complete := by
  rw [step_of_moves_nil hm, blockStep_illegal hc hd, illegalCommand_faulted hl]

/-- Settles O9: what goes through `runCommand` is discarded; RDREG of a register and FAULT_ACK do not. -/
theorem faultedBlockDiscardsCommands : Obligations.FaultedBlockDiscardsCommands := by
  intro s l hl
  have hf : s.faulted = true := (faulted_iff s).2 ⟨l, hl⟩
  refine ⟨fun i hread hack => ?_, fun r hr => ?_, fun w why hc hd hm => step_illegal_faulted hl hc hd hm,
    fun r reg hreg => exec_rdreg_value hreg rfl, rfl⟩
  · obtain ⟨e, he, -⟩ := exec_eq_runCommand i s hread hack
    exact he.trans (runCommand_faulted hf i e)
  · exact (exec_rdreg_reserved (regOfNumber_eq_none hr) s).trans (runCommand_faulted hf ..)

/-- The only word of FAULT_ACK's row that is a command is its OP alone (rules R82 and R84). -/
theorem decodeWord_faultAck_reservedBits {w : Word} (hop : field w 7 0 = 0x4F) (hne : w ≠ 0x4F) :
    ∃ why, decodeWord w = .illegal why := by
  cases hd : decodeWord w with
  | illegal why => exact ⟨why, rfl⟩
  | command i =>
    obtain ⟨op, hcode, -, rfl⟩ := decodeWord_command hd
    obtain rfl : op = .faultAck := Opcode.code_inj (hcode.trans hop)
    exact absurd (encodeOfDecodeIsTheWord w _ hd).1.symm hne

/-- Settles O11: `exec` of FAULT_ACK by definition, and its words with a reserved bit set as those of any row. -/
theorem faultAckClearsTheLatch : Obligations.FaultAckClearsTheLatch := by
  refine ⟨fun _ => rfl, rejectsReservedBits .faultAck, fun s w l hl hc hm hop hne => ?_⟩
  obtain ⟨why, hd⟩ := decodeWord_faultAck_reservedBits hop hne
  exact step_illegal_faulted hl hc hd hm

/-! ### Fault entry -/

/-- A step from `s` to `t` is no fault entry. -/
def State.KeepsFaults (s t : State) : Prop := t.faultLog = s.faultLog ∧ (s.latch = none → t.latch = none)

/-- The state in which EXECUTE, run from the word `w`, faults when its exchange fails (rule R184). -/
def State.failedExchange (s : State) (w : Word) : State :=
  { s.padded.sent with
    buf := s.padded.buf.writeAll 0
      (garbage s.padded.cursor.toNat s.padded.busLog s.padded.busRequest) }.enterFault .transportError w

/-- Fault entry on the accepted word `w` (rule R222): nothing is written besides, but by EXECUTE's failed exchange. -/
inductive State.EntersFault (s : State) (w : Word) : State → Prop where
  | raised {c : FaultCode} (hc : c ≠ .transportError) : EntersFault s w (s.enterFault c w)
  | transportError (hd : decodeWord w = .command .execute) : EntersFault s w (s.failedExchange w)

/-- The exchange ends in a state without a fault, or fails. -/
theorem padded_transfer_cases (s : State) :
    s.KeepsFaults s.padded.transfer ∨ s.padded.transfer = s.failedExchange (encode .execute) := by
  obtain he | ⟨rx, he, -⟩ := exchange_cases s.padded s.padded.busRequest
  · exact .inr (transfer_transportError he)
  · refine .inl ?_
    rw [transfer_received he, padded_sent]
    exact ⟨rfl, id⟩

theorem runCommand_entersFault {i : Instr} {w : Word} {s t : State} {e : Effect} (hd : decodeWord w = .command i)
    (he : e.FaultsPrecisely s i) (h : runCommand i s e = .next t) :
    s.KeepsFaults t ∨ (s.latch = none ∧ s.EntersFault w t) := by
  obtain ⟨-, rfl⟩ | ⟨hf, hend⟩ := runCommand_next h
  · exact .inl ⟨rfl, id⟩
  have hl := (not_faulted_iff s).1 hf
  have hw := (encodeOfDecodeIsTheWord w i hd).1
  obtain ⟨u, rfl, rfl⟩ | ⟨c, rfl, rfl⟩ | ⟨rfl, rfl⟩ | rfl := hend
  · obtain ⟨hlatch, hlog⟩ := he
    exact .inl ⟨hlog, hlatch.trans⟩
  · exact .inr ⟨hl, hw ▸ .raised he⟩
  · exact .inl ⟨rfl, id⟩
  · obtain ⟨rfl, rfl⟩ := he
    obtain hkeeps | hfailed := padded_transfer_cases s
    · exact .inl hkeeps
    · exact .inr ⟨hl, hw ▸ hfailed ▸ .transportError (hw.symm ▸ hd)⟩

/-- A command that goes on leaves fault_log and latches nothing, or enters a fault on its word. -/
theorem exec_entersFault {i : Instr} {w : Word} {s t : State} (hd : decodeWord w = .command i)
    (h : exec i s = .next t) : s.KeepsFaults t ∨ (s.latch = none ∧ s.EntersFault w t) := by
  have hrun := exec_eq_runCommand i s
  cases i with
  | faultAck =>
    cases h
    exact .inl ⟨rfl, fun _ => rfl⟩
  | rdreg r =>
    cases hreg : regOfNumber r with
    | none =>
      rw [exec_rdreg_reserved hreg] at h
      exact runCommand_entersFault hd (Effect.faultsPrecisely_raise (by decide)) h
    | some reg =>
      cases (exec_rdreg hreg s).symm.trans h
      exact .inl ⟨rfl, id⟩
  | _ =>
    obtain ⟨e, hrun, he⟩ := hrun (fun _ => nofun) nofun
    exact runCommand_entersFault hd he (hrun.symm.trans h)

/-- The BLOCK leaves fault_log and latches nothing, or enters a fault on the word it has accepted. -/
theorem blockStep_entersFault {s t : State} (h : blockStep s = .next t) :
    s.KeepsFaults t ∨ (s.latch = none ∧ ∃ w, s.cmd = some w ∧ s.EntersFault w t) := by
  cases hc : s.cmd with
  | none =>
    simp only [blockStep, hc, Host.Outcome.next.injEq] at h
    exact .inl ⟨h ▸ rfl, h ▸ id⟩
  | some w =>
    cases hd : decodeWord w with
    | command i =>
      rw [blockStep_command hc hd] at h
      exact (exec_entersFault hd h).imp_right fun ⟨hl, hfault⟩ => ⟨hl, w, rfl, hfault⟩
    | illegal why =>
      rw [blockStep_illegal hc hd] at h
      cases hl : s.latch with
      | none =>
        cases (illegalCommand_ready hl w).symm.trans h
        exact .inr ⟨rfl, w, rfl, .raised (by decide)⟩
      | some l =>
        cases (illegalCommand_faulted hl w).symm.trans h
        exact .inl ⟨rfl, id⟩

/-- Fault entry latches the code it logs. -/
theorem State.EntersFault.logged {s t : State} {w : Word} (h : s.EntersFault w t) :
    ∃ l : FaultLatch, t.latch = some l ∧ t.faultLog = s.faultLog ++ [(l.code, w)] := by
  cases h with
  | raised => exact ⟨_, rfl, rfl⟩
  | transportError =>
    refine ⟨_, rfl, ?_⟩
    rw [State.failedExchange, padded_sent]
    rfl

theorem toNat_ofNat_field_opcode (w : Word) : (BitVec.ofNat 8 (field w 7 0)).toNat = field w 7 0 := by
  rw [BitVec.toNat_ofNat, Nat.mod_eq_of_lt (field_lt w 7 0)]

/-- Settles O10: of the BLOCK's steps only a fault entry latches a fault, and its two forms are the two clauses. -/
theorem faultEntryIsPrecise : Obligations.FaultEntryIsPrecise := by
  intro s t w l hl hm hc hstep hlatch
  rw [step_of_moves_nil hm] at hstep
  obtain ⟨-, hkeeps⟩ | ⟨-, v, hv, hfault⟩ := blockStep_entersFault hstep
  · cases (hkeeps hl).symm.trans hlatch
  obtain rfl : v = w := Option.some.inj (hv.symm.trans hc)
  cases hfault with
  | raised hne =>
    cases hlatch
    exact ⟨toNat_ofNat_field_opcode v, fun _ => rfl, fun heq => absurd heq hne⟩
  | transportError hd =>
    cases hlatch
    refine ⟨toNat_ofNat_field_opcode v, fun hne => absurd rfl hne, fun _ => ⟨hd, ?_⟩⟩
    rw [State.failedExchange, padded_sent]
    rfl

/-- Settles O12: only the BLOCK enters a fault, and every other move leaves fault_log and latches nothing. -/
theorem faultLogIsAppendOnly : Obligations.FaultLogIsAppendOnly := by
  intro s t hstep
  cases step_next hstep with
  | block _ ht =>
    obtain hkeeps | ⟨hl, w, hc, hfault⟩ := blockStep_entersFault ht
    · exact .inl hkeeps
    · obtain ⟨l, hlatch, hlog⟩ := hfault.logged
      exact .inr ⟨hl, l, w, hlatch, hlog, hc⟩
  | clock | hostWrite | accept => exact .inl ⟨rfl, id⟩
  | reset => exact .inl ⟨rfl, fun _ => rfl⟩

/-! ### RST -/

/-- Settles O54: `State.rst` is the power-on state but for what lies outside the block. -/
theorem rstRestoresTheResetValues : Obligations.RstRestoresTheResetValues := fun _ _ hm => step_of_moves_reset hm

end Sys2Proof.Machine
